-- ==== Sys2Proof/Word.lean ====
section
/-! DEFINITION. The word types of the lucid8 CORE (spec 00_scope.md R13, 10_state.md R31, R36). -/

namespace Sys2Proof

/-- An 8-bit unsigned value: a general register, a memory cell, the operand `kk` (R31, R45, R101). -/
abbrev Byte := BitVec 8

/-- A 16-bit unsigned value: an instruction word, `pc`, `i`, a stack entry (R36, R39, R41, R100). -/
abbrev Word := BitVec 16

/-- A 4-bit field of an instruction word (R101). -/
abbrev Nibble := BitVec 4

/-- The 12-bit address operand `addr` (R101). -/
abbrev Addr := BitVec 12

/-- A register index 0..15 (R31): out-of-range indices cannot be formed (R33). -/
abbrev Reg := Fin 16

/-- VF, the flag register: register 15 (R32). -/
abbrev vf : Reg := 15

end Sys2Proof
end

