-- ==== Sys2Proof/Config.lean ====
section
/-! DEFINITION. What an implementation fixes (the fixed parameters of spec 00_scope.md R8, the OPEN parameters of R9) and the free values. -/

namespace Sys2Proof

/-- What 0nnn decodes to: the OPEN parameter `sys_mode` (R9, 92 D4). -/
inductive SysMode where
  | sysFault    -- 0nnn is SYS, which raises Unimplemented
  | sysBadCode  -- 0nnn is a decode error
  deriving DecidableEq, Repr

/-- What SHR and SHL do to VF: the OPEN parameter `shift_vf` (R9, 92 D7). -/
inductive ShiftVf where
  | unchanged
  | shiftedOutBit
  deriving DecidableEq, Repr

/-- SUBN's flag rule: the OPEN parameter `subn_flag` (R9, 92 D8). -/
inductive SubnFlag where
  | conventional  -- VF = 1 iff Vy > Vx
  | literal       -- VF = 1 iff Vy > 1
  deriving DecidableEq, Repr

/-- What an instruction's write into the font table does: the OPEN parameter `font_write` (R9, 92 D14). -/
inductive FontWrite where
  | fault
  | allow
  deriving DecidableEq, Repr

/-- The OPEN parameters of R9 that a machine carries unchanged for life. They are a field of State, so that a
statement over all states holds under every setting. DESIGN CHOICE (log entry 1). -/
structure Params where
  sysMode   : SysMode
  shiftVf   : ShiftVf
  subnFlag  : SubnFlag
  fontWrite : FontWrite
  deriving DecidableEq, Repr

/-- The defaults of R9. -/
def Params.default : Params :=
  { sysMode := .sysFault, shiftVf := .unchanged, subnFlag := .conventional, fontWrite := .fault }

namespace Config

/-- MEM_SIZE (R8). -/
abbrev memSize : Nat := 4096

/-- FONT_LEN: the font table is 0x000..0x04F (R8). -/
abbrev fontLen : Nat := 80

/-- GLYPH_LEN (R8). -/
abbrev glyphLen : Nat := 5

/-- PROG_BASE (R8). -/
abbrev progBase : Nat := 0x200

/-- PROG_MAX (R8). -/
abbrev progMax : Nat := 3584

/-- The default of `font_bytes` (20_memory.md R78, 92 D15). PRESUMED: the spec takes the bytes from general knowledge
(log entry 2). -/
def fontTable : List Byte :=
  [ 0xF0, 0x90, 0x90, 0x90, 0xF0,   -- 0
    0x20, 0x60, 0x20, 0x20, 0x70,   -- 1
    0xF0, 0x10, 0xF0, 0x80, 0xF0,   -- 2
    0xF0, 0x10, 0xF0, 0x10, 0xF0,   -- 3
    0x90, 0x90, 0xF0, 0x10, 0x10,   -- 4
    0xF0, 0x80, 0xF0, 0x10, 0xF0,   -- 5
    0xF0, 0x80, 0xF0, 0x90, 0xF0,   -- 6
    0xF0, 0x10, 0x20, 0x40, 0x40,   -- 7
    0xF0, 0x90, 0xF0, 0x90, 0xF0,   -- 8
    0xF0, 0x90, 0xF0, 0x10, 0xF0,   -- 9
    0xF0, 0x90, 0xF0, 0x90, 0x90,   -- A
    0xE0, 0x90, 0xE0, 0x90, 0xE0,   -- B
    0xF0, 0x80, 0x80, 0x80, 0xF0,   -- C
    0xE0, 0x90, 0x90, 0x90, 0xE0,   -- D
    0xF0, 0x80, 0xF0, 0x80, 0xF0,   -- E
    0xF0, 0x80, 0xF0, 0x80, 0x80 ]  -- F

/-- Free value: the byte the k-th RND draws (41_alu.md R181, 92 D22: no generator, seed or law). -/
opaque rngDraw : Nat → Byte

/-- Free value: how many step boundaries pass before the next tick of the delay timer, at its k-th (re)arming
(60_exceptions.md R324, 92 D25: any number of ticks between steps, weakly fair). -/
opaque delayGap : Nat → Nat

/-- Free value: the same for the sound timer. -/
opaque soundGap : Nat → Nat

end Config

end Sys2Proof
end

