-- ==== Sys2Proof/Syntax.lean ====
section
/-! DEFINITION. The 35 instruction variants (spec 30_encoding.md R106), one constructor per row of the opcode table, every operand field of the word kept, the unused ones too (R110). -/

namespace Sys2Proof

/-- The instruction set, in the order of R106. -/
inductive Instr where
  | cls                                 -- 00E0
  | ret                                 -- 00EE
  | sys (addr : Addr)                   -- 0aaa, aaa not 0E0 or 0EE
  | jp (addr : Addr)                    -- 1aaa
  | call (addr : Addr)                  -- 2aaa
  | se (x : Reg) (kk : Byte)            -- 3xkk
  | sne (x : Reg) (kk : Byte)           -- 4xkk
  | sev (x y : Reg)                     -- 5xy0
  | snev (x y : Reg)                    -- 9xy0
  | ld (x : Reg) (kk : Byte)            -- 6xkk
  | add (x : Reg) (kk : Byte)           -- 7xkk
  | mov (x y : Reg)                     -- 8xy0
  | or (x y : Reg)                      -- 8xy1
  | and (x y : Reg)                     -- 8xy2
  | xor (x y : Reg)                     -- 8xy3
  | addv (x y : Reg)                    -- 8xy4
  | sub (x y : Reg)                     -- 8xy5
  | shr (x y : Reg)                     -- 8xy6, y unused
  | subn (x y : Reg)                    -- 8xy7
  | shl (x y : Reg)                     -- 8xyE, y unused
  | ldi (addr : Addr)                   -- Aaaa
  | jpv0 (addr : Addr)                  -- Baaa
  | rnd (x : Reg) (kk : Byte)           -- Cxkk
  | drw (x y : Reg) (n : Nibble)        -- Dxyn
  | skp (x : Reg)                       -- Ex9E, x unused
  | sknp (x : Reg)                      -- ExA1, x unused
  | ldd (x : Reg)                       -- Fx07
  | ldk (x : Reg)                       -- Fx0A, x unused
  | lddv (x : Reg)                      -- Fx15
  | lds (x : Reg)                       -- Fx18
  | addi (x : Reg)                      -- Fx1E
  | ldf (x : Reg)                       -- Fx29
  | ldb (x : Reg)                       -- Fx33
  | ldiv (x : Reg)                      -- Fx55, x unused
  | ldvi (x : Reg)                      -- Fx65, x unused
  deriving DecidableEq, Repr

end Sys2Proof
end

