-- ==== Sys2Proof/WellFormed.lean ====
section
/-! DEFINITION. Which terms of Instr stand for an instruction. -/

namespace Sys2Proof

/-- Every operand type holds exactly its field's values, so one check is left: the words 00E0 and 00EE are CLS and RET,
never SYS (spec 30_encoding.md R104, R106 row 3). -/
def Instr.wf : Instr → Bool
  | .sys addr => addr != 0x0E0 && addr != 0x0EE
  | .cls | .ret | .jp _ | .call _ | .se _ _ | .sne _ _ | .sev _ _ | .snev _ _ | .ld _ _ | .add _ _ | .mov _ _
  | .or _ _ | .and _ _ | .xor _ _ | .addv _ _ | .sub _ _ | .shr _ _ | .subn _ _ | .shl _ _ | .ldi _ | .jpv0 _
  | .rnd _ _ | .drw _ _ _ | .skp _ | .sknp _ | .ldd _ | .ldk _ | .lddv _ | .lds _ | .addi _ | .ldf _ | .ldb _
  | .ldiv _ | .ldvi _ => true

end Sys2Proof
end

