-- ==== Sys2Proof/Decode.lean ====
section
/-! DEFINITION. The decoder (spec 30_encoding.md R104), the encoder written from the same formats (R103, R106), and the opcode table's rows. -/

namespace Sys2Proof

/-- What decoding can raise (R104): the illegal word itself. -/
inductive DecodeError where
  | badCode (w : Word)
  deriving DecidableEq, Repr

/-! ### The fields of a word (R101) -/

/-- w[15:12], the opcode family. -/
def fieldN0 (w : Word) : Nibble := w.extractLsb' 12 4

/-- w[11:8], a register index. -/
def fieldX (w : Word) : Reg := (w.extractLsb' 8 4).toFin

/-- w[7:4], a register index. -/
def fieldY (w : Word) : Reg := (w.extractLsb' 4 4).toFin

/-- w[3:0], the nibble operand or a sub-opcode. -/
def fieldN (w : Word) : Nibble := w.extractLsb' 0 4

/-- w[7:0], the byte operand or a sub-opcode. -/
def fieldKK (w : Word) : Byte := w.extractLsb' 0 8

/-- w[11:0], the address operand. -/
def fieldAddr (w : Word) : Addr := w.extractLsb' 0 12

/-! ### decode (R104), family by family -/

/-- The arm of N0 = 0. -/
def decode0 (m : SysMode) (w : Word) : Except DecodeError Instr :=
  if w = 0x00E0 then .ok .cls
  else if w = 0x00EE then .ok .ret
  else match m with
    | .sysFault => .ok (.sys (fieldAddr w))
    | .sysBadCode => .error (.badCode w)

/-- The arm of N0 = 8. -/
def decode8 (w : Word) : Except DecodeError Instr :=
  let x := fieldX w
  let y := fieldY w
  match (fieldN w).toNat with
  | 0x0 => .ok (.mov x y)
  | 0x1 => .ok (.or x y)
  | 0x2 => .ok (.and x y)
  | 0x3 => .ok (.xor x y)
  | 0x4 => .ok (.addv x y)
  | 0x5 => .ok (.sub x y)
  | 0x6 => .ok (.shr x y)
  | 0x7 => .ok (.subn x y)
  | 0xE => .ok (.shl x y)
  | _ => .error (.badCode w)

/-- The arm of N0 = E. -/
def decodeE (w : Word) : Except DecodeError Instr :=
  let x := fieldX w
  match (fieldKK w).toNat with
  | 0x9E => .ok (.skp x)
  | 0xA1 => .ok (.sknp x)
  | _ => .error (.badCode w)

/-- The arm of N0 = F. -/
def decodeF (w : Word) : Except DecodeError Instr :=
  let x := fieldX w
  match (fieldKK w).toNat with
  | 0x07 => .ok (.ldd x)
  | 0x0A => .ok (.ldk x)
  | 0x15 => .ok (.lddv x)
  | 0x18 => .ok (.lds x)
  | 0x1E => .ok (.addi x)
  | 0x29 => .ok (.ldf x)
  | 0x33 => .ok (.ldb x)
  | 0x55 => .ok (.ldiv x)
  | 0x65 => .ok (.ldvi x)
  | _ => .error (.badCode w)

/-- `decode(w)`: total, pure, a function of the word and `sys_mode` alone (R104). The last arm is N0 = F. -/
def decode (m : SysMode) (w : Word) : Except DecodeError Instr :=
  match (fieldN0 w).toNat with
  | 0x0 => decode0 m w
  | 0x1 => .ok (.jp (fieldAddr w))
  | 0x2 => .ok (.call (fieldAddr w))
  | 0x3 => .ok (.se (fieldX w) (fieldKK w))
  | 0x4 => .ok (.sne (fieldX w) (fieldKK w))
  | 0x5 => if fieldN w = 0 then .ok (.sev (fieldX w) (fieldY w)) else .error (.badCode w)
  | 0x6 => .ok (.ld (fieldX w) (fieldKK w))
  | 0x7 => .ok (.add (fieldX w) (fieldKK w))
  | 0x8 => decode8 w
  | 0x9 => if fieldN w = 0 then .ok (.snev (fieldX w) (fieldY w)) else .error (.badCode w)
  | 0xA => .ok (.ldi (fieldAddr w))
  | 0xB => .ok (.jpv0 (fieldAddr w))
  | 0xC => .ok (.rnd (fieldX w) (fieldKK w))
  | 0xD => .ok (.drw (fieldX w) (fieldY w) (fieldN w))
  | 0xE => decodeE w
  | _ => decodeF w

/-! ### Bytes and words (20_memory.md R74) -/

/-- The instruction word of two bytes: the first, at the lower address, is bits 15..8 (R74). -/
def wordOfBytes (b0 b1 : Byte) : Word := b0 ++ b1

/-- Bits 15..8, the byte at the lower address (R74). -/
def highByte (w : Word) : Byte := w.extractLsb' 8 8

/-- Bits 7..0, the byte at the higher address (R74). -/
def lowByte (w : Word) : Byte := w.extractLsb' 0 8

/-- What the decoder reads from an instruction whose table bits are `w`: a table row's 16 bits are the instruction
word, stored as two bytes, the high one first. Bits from `nbits` up are 0, and SYS decodes as under the default
`sys_mode` (the table's row of SYS exists only there). -/
def decodeTableWord (nbits w : Nat) : Option Instr :=
  let word : Word := BitVec.ofNat 16 (w % 2 ^ nbits)
  match decode Params.default.sysMode (wordOfBytes (highByte word) (lowByte word)) with
  | .ok i => some i
  | .error _ => none

/-! ### encode (R103, R106) -/

/-- A register field. -/
def regBits (r : Reg) : Nibble := BitVec.ofFin r

/-- Format A: a family nibble and an address. -/
def formA (f : Nibble) (addr : Addr) : Word := f ++ addr

/-- Format XK: a family nibble, a register and a byte. -/
def formXK (f : Nibble) (x : Reg) (kk : Byte) : Word := f ++ regBits x ++ kk

/-- Format XYN, and format XY with its sub-opcode as the last nibble. -/
def formXYN (f : Nibble) (x y : Reg) (n : Nibble) : Word := f ++ regBits x ++ regBits y ++ n

/-- The word of an instruction (R103, R106). -/
def encode : Instr → Word
  | .cls => 0x00E0
  | .ret => 0x00EE
  | .sys addr => formA 0x0 addr
  | .jp addr => formA 0x1 addr
  | .call addr => formA 0x2 addr
  | .se x kk => formXK 0x3 x kk
  | .sne x kk => formXK 0x4 x kk
  | .sev x y => formXYN 0x5 x y 0x0
  | .snev x y => formXYN 0x9 x y 0x0
  | .ld x kk => formXK 0x6 x kk
  | .add x kk => formXK 0x7 x kk
  | .mov x y => formXYN 0x8 x y 0x0
  | .or x y => formXYN 0x8 x y 0x1
  | .and x y => formXYN 0x8 x y 0x2
  | .xor x y => formXYN 0x8 x y 0x3
  | .addv x y => formXYN 0x8 x y 0x4
  | .sub x y => formXYN 0x8 x y 0x5
  | .shr x y => formXYN 0x8 x y 0x6
  | .subn x y => formXYN 0x8 x y 0x7
  | .shl x y => formXYN 0x8 x y 0xE
  | .ldi addr => formA 0xA addr
  | .jpv0 addr => formA 0xB addr
  | .rnd x kk => formXK 0xC x kk
  | .drw x y n => formXYN 0xD x y n
  | .skp x => formXK 0xE x 0x9E
  | .sknp x => formXK 0xE x 0xA1
  | .ldd x => formXK 0xF x 0x07
  | .ldk x => formXK 0xF x 0x0A
  | .lddv x => formXK 0xF x 0x15
  | .lds x => formXK 0xF x 0x18
  | .addi x => formXK 0xF x 0x1E
  | .ldf x => formXK 0xF x 0x29
  | .ldb x => formXK 0xF x 0x33
  | .ldiv x => formXK 0xF x 0x55
  | .ldvi x => formXK 0xF x 0x65

/-! ### The opcode table (30_encoding.md, opcode_table.json) -/

/-- The mnemonic of R106. -/
def Instr.mnemonic : Instr → String
  | .cls => "CLS" | .ret => "RET" | .sys _ => "SYS" | .jp _ => "JP" | .call _ => "CALL"
  | .se _ _ => "SE" | .sne _ _ => "SNE" | .sev _ _ => "SEV" | .snev _ _ => "SNEV"
  | .ld _ _ => "LD" | .add _ _ => "ADD" | .mov _ _ => "MOV" | .or _ _ => "OR" | .and _ _ => "AND"
  | .xor _ _ => "XOR" | .addv _ _ => "ADDV" | .sub _ _ => "SUB" | .shr _ _ => "SHR" | .subn _ _ => "SUBN"
  | .shl _ _ => "SHL" | .ldi _ => "LDI" | .jpv0 _ => "JPV0" | .rnd _ _ => "RND" | .drw _ _ _ => "DRW"
  | .skp _ => "SKP" | .sknp _ => "SKNP" | .ldd _ => "LDD" | .ldk _ => "LDK" | .lddv _ => "LDDV"
  | .lds _ => "LDS" | .addi _ => "ADDI" | .ldf _ => "LDF" | .ldb _ => "LDB" | .ldiv _ => "LDIV" | .ldvi _ => "LDVI"

/-- A row of the opcode table. -/
structure OpcodeRow where
  mnemonic : String
  mask     : Word
  value    : Word
  exclude  : List Word
  deriving DecidableEq, Repr

/-- The rows of opcode_table.json: mnemonic, mask, match, exclude. -/
def opcodeTable : List OpcodeRow :=
  [ ⟨"CLS", 0xFFFF, 0x00E0, []⟩, ⟨"RET", 0xFFFF, 0x00EE, []⟩, ⟨"SYS", 0xF000, 0x0000, [0x00E0, 0x00EE]⟩,
    ⟨"JP", 0xF000, 0x1000, []⟩, ⟨"CALL", 0xF000, 0x2000, []⟩, ⟨"SE", 0xF000, 0x3000, []⟩,
    ⟨"SNE", 0xF000, 0x4000, []⟩, ⟨"SEV", 0xF00F, 0x5000, []⟩, ⟨"SNEV", 0xF00F, 0x9000, []⟩ ] ++
  [ ⟨"LD", 0xF000, 0x6000, []⟩, ⟨"ADD", 0xF000, 0x7000, []⟩, ⟨"MOV", 0xF00F, 0x8000, []⟩,
    ⟨"OR", 0xF00F, 0x8001, []⟩, ⟨"AND", 0xF00F, 0x8002, []⟩, ⟨"XOR", 0xF00F, 0x8003, []⟩,
    ⟨"ADDV", 0xF00F, 0x8004, []⟩, ⟨"SUB", 0xF00F, 0x8005, []⟩, ⟨"SHR", 0xF00F, 0x8006, []⟩,
    ⟨"SUBN", 0xF00F, 0x8007, []⟩, ⟨"SHL", 0xF00F, 0x800E, []⟩ ] ++
  [ ⟨"LDI", 0xF000, 0xA000, []⟩, ⟨"JPV0", 0xF000, 0xB000, []⟩, ⟨"RND", 0xF000, 0xC000, []⟩,
    ⟨"DRW", 0xF000, 0xD000, []⟩, ⟨"SKP", 0xF0FF, 0xE09E, []⟩, ⟨"SKNP", 0xF0FF, 0xE0A1, []⟩ ] ++
  [ ⟨"LDD", 0xF0FF, 0xF007, []⟩, ⟨"LDK", 0xF0FF, 0xF00A, []⟩, ⟨"LDDV", 0xF0FF, 0xF015, []⟩,
    ⟨"LDS", 0xF0FF, 0xF018, []⟩, ⟨"ADDI", 0xF0FF, 0xF01E, []⟩, ⟨"LDF", 0xF0FF, 0xF029, []⟩,
    ⟨"LDB", 0xF0FF, 0xF033, []⟩, ⟨"LDIV", 0xF0FF, 0xF055, []⟩, ⟨"LDVI", 0xF0FF, 0xF065, []⟩ ]

/-- A word matches a row when `(w AND mask) = match` and the row does not exclude it (30_encoding.md, opening). -/
def OpcodeRow.covers (row : OpcodeRow) (w : Word) : Bool :=
  w &&& row.mask == row.value && !row.exclude.contains w

end Sys2Proof
end

