-- ==== Sys2Proof/Machine/State.lean ====
section
/-! DEFINITION. The state of the CORE as plain data (spec 10_state.md R30), the reasons a step stops, and the state after creation (70_reset_and_hazards.md R351). -/

namespace Sys2Proof.Machine

/-- The variants that decode and have no implementation (30_encoding.md R109). -/
inductive Unimplemented where
  | skp
  | sknp
  | ldk
  | sys
  deriving DecidableEq, Repr

/-- Every error the CORE raises, a kind with the info it records (60_exceptions.md R300). -/
inductive Error where
  | badCode (w : Word)                                -- 1 DecodeError
  | invalidRegister (index : Nat)                     -- 2 RegisterError: no instruction raises it (R33)
  | outOfBounds (start len : Nat)                     -- 3 MemoryError
  | exceedsCapacity (start len : Nat)                 -- 4 MemoryError
  | readOnly (start len : Nat)                        -- 5 MemoryError
  | unimplemented (variant : Unimplemented) (w : Word) -- 6 Unimplemented
  | stackOverflow (sp : Nat)                          -- 7 StackError
  | stackUnderflow (sp : Nat)                         -- 8 StackError
  | programTooLarge (len : Nat)                       -- 9 ProgramError: returned to the host, never latched (R353)
  deriving DecidableEq, Repr

/-- The error classes of R300. -/
inductive ErrorClass where
  | decodeError
  | registerError
  | memoryError
  | unimplemented
  | stackError
  | programError
  deriving DecidableEq, Repr

/-- The record in the fault latch: the error (its code, class, kind and info are functions of it), the address of the
instruction whose step raised it, and the word when the fetch succeeded (10_state.md R53). -/
structure FaultRecord where
  error : Error
  addr  : Word
  word  : Option Word
  deriving DecidableEq, Repr

/-- A timed register (10_state.md R50, R51): its value; the phase of its decrement process, counted in step boundaries
before the next tick; and how many gaps it has drawn (the model's own counter, log entry 4). -/
structure Timer where
  value : Byte
  phase : Nat
  draws : Nat
  deriving DecidableEq, Repr

/-- The framebuffer: W, H and its rows of pixels, row 0 first, column 0 first (10_state.md R47, R48). -/
structure Framebuffer where
  width  : Nat
  height : Nat
  rows   : List (List Bool)
  deriving DecidableEq, Repr

/-- The 4096 bytes of memory as the list of those that differ from what an unlisted address reads as, in rising order
of address (10_state.md R45, 20_memory.md R70). -/
structure Memory where
  cells : List Host.Cell
  deriving DecidableEq, Repr

/-- The complete state (10_state.md R30), the machine's parameters (00_scope.md R9), and the counter of RND draws
(the model's own, log entry 3). -/
structure State where
  V        : Vector Byte 16
  pc       : Word
  i        : Word
  stack    : Vector Word 16
  sp       : Fin 17
  mem      : Memory
  fb       : Framebuffer
  delay    : Timer
  sound    : Timer
  fault    : Option FaultRecord
  params   : Params
  rngIndex : Nat
  deriving DecidableEq, Repr

/-- Why a step stops the machine. -/
inductive Fault where
  /-- Raised by `step` when the fault latch is set: the CORE takes no step, the state stays as it is, and the host gets
  the latched record (60_exceptions.md R303: a final, non-successful outcome of the run). Safe. -/
  | latched (record : FaultRecord)
  deriving DecidableEq, Repr

/-- Why a step has no meaning. -/
inductive Refusal where
  /-- Raised by an arm of `exec` whose instruction has no meaning yet; no arm is left that raises it. Safe. -/
  | notModelled (mnemonic : String)
  deriving DecidableEq, Repr

/-- What an instruction answers. -/
abbrev Result := Host.Outcome State Fault Refusal

/-- The machine right after creation, under the default parameters (70_reset_and_hazards.md R351, R352): the font table
stands in memory as what its unlisted addresses read as (log entry 2). The host's later `reset()` is `hostReset`. -/
def State.reset : State where
  V        := Vector.replicate 16 0
  pc       := 0x200
  i        := 0
  stack    := Vector.replicate 16 0
  sp       := 0
  mem      := { cells := [] }
  fb       := { width := 64, height := 32, rows := List.replicate 32 (List.replicate 64 false) }
  delay    := { value := 0, phase := 0, draws := 0 }
  sound    := { value := 0, phase := 0, draws := 0 }
  fault    := none
  params   := Params.default
  rngIndex := 0

end Sys2Proof.Machine
end

