-- ==== Sys2Proof/Machine/Ops.lean ====
section
/-! DEFINITION. The named operations over registers, pc, stack and memory (spec 10_state.md, 20_memory.md), raising an error (60_exceptions.md R302), and the fetch (40_control_flow.md R140). -/

namespace Sys2Proof.Machine

/-! ### Register bank (10_state.md R31 to R35) -/

/-- `V[r]`. -/
def State.reg (s : State) (r : Reg) : Byte := s.V[r]

/-- `V[r] <- v`. -/
def State.setReg (s : State) (r : Reg) (v : Byte) : State := { s with V := s.V.set r v }

/-- `get_pair`: both registers read together (R34). -/
def State.getPair (s : State) (x y : Reg) : Byte × Byte := (s.reg x, s.reg y)

/-- `as_bytes`: byte k is `V[k]` (R35). -/
def State.asBytes (s : State) : List Byte := s.V.toList

/-- `set_bytes`: `V[k] <- b[k]` for k = 0..15 at once (R35). -/
def State.setBytes (s : State) (b : List Byte) : State :=
  { s with V := Vector.ofFn fun k => b.getD k.val 0 }

/-- The bank's `get` at an index of any size (R33): no instruction reaches the error. -/
def State.bankGet (s : State) (r : Nat) : Except Error Byte :=
  if h : r < 16 then .ok (s.reg ⟨r, h⟩) else .error (.invalidRegister r)

/-- The bank's `set` at an index of any size (R33). -/
def State.bankSet (s : State) (r : Nat) (v : Byte) : Except Error State :=
  if h : r < 16 then .ok (s.setReg ⟨r, h⟩ v) else .error (.invalidRegister r)

/-! ### Program counter (10_state.md R36 to R38) -/

/-- `pc <- (pc + 2) mod 65536`: the advance of every step, and once more of a skip (40_control_flow.md R140, R150). -/
def State.advance (s : State) : State := { s with pc := s.pc + 2 }

/-- A skip whose condition holds advances once more (R150). -/
def State.skipIf (s : State) (c : Bool) : State := if c then s.advance else s

/-- `pc <- t`. -/
def State.jump (s : State) (t : Word) : State := { s with pc := t }

/-- `i <- v`. -/
def State.setI (s : State) (v : Word) : State := { s with i := v }

/-! ### Call stack (10_state.md R41 to R43) -/

/-- CALL's push: write `stack[sp]`, then increment; Overflow at 16 (R42). -/
def State.push (s : State) (v : Word) : Except Error State :=
  if h : s.sp.val < 16 then
    .ok { s with stack := s.stack.set s.sp.val v, sp := ⟨s.sp.val + 1, by omega⟩ }
  else .error (.stackOverflow s.sp.val)

/-- RET's pop: decrement, then `pc <- stack[sp]`, the entry kept; Underflow at 0 (R42, R43, 40_control_flow.md R142). -/
def State.popToPc (s : State) : Except Error State :=
  if h : 0 < s.sp.val then
    .ok { s with sp := ⟨s.sp.val - 1, by omega⟩, pc := s.stack[s.sp.val - 1]'(by omega) }
  else .error (.stackUnderflow s.sp.val)

/-! ### Memory (20_memory.md R70 to R77) -/

/-- What an address that memory does not list reads as: the contents at creation, the default font table at
0x000..0x04F and 0 elsewhere (R71, R78, 70_reset_and_hazards.md R351). -/
def unlistedByte (a : Nat) : Byte := Config.fontTable.getD a 0

/-- The listed byte at an address. -/
def cellsFind : List Host.Cell → Nat → Option Byte
  | [], _ => none
  | c :: rest, a => if c.1 = a then some c.2 else cellsFind rest a

/-- Put a byte at its place in the canonical list; the byte an unlisted address reads as is not listed. -/
def cellsPut : List Host.Cell → Nat → Byte → List Host.Cell
  | [], a, v => if v = unlistedByte a then [] else [(a, v)]
  | c :: rest, a, v =>
    if c.1 < a then c :: cellsPut rest a v
    else if c.1 = a then (if v = unlistedByte a then rest else (a, v) :: rest)
    else (if v = unlistedByte a then c :: rest else (a, v) :: c :: rest)

/-- `mem[a]`. -/
def Memory.byte (m : Memory) (a : Nat) : Byte := (cellsFind m.cells a).getD (unlistedByte a)

/-- `mem[a] <- v`; an address outside memory holds nothing (no checked access reaches one). -/
def Memory.put (m : Memory) (a : Nat) (v : Byte) : Memory :=
  if a < Config.memSize then { cells := cellsPut m.cells a v } else m

/-- `mem[start + k] <- data[k]`, unchecked. -/
def Memory.putBytes (m : Memory) (start : Nat) : List Byte → Memory
  | [] => m
  | b :: bs => (m.put start b).putBytes (start + 1) bs

/-- The canonical form: addresses strictly rising and inside memory, no entry equal to what an unlisted address reads
as. -/
abbrev Memory.wf (m : Memory) : Prop :=
  m.cells.Pairwise (fun c d => c.1 < d.1) ∧ ∀ c ∈ m.cells, c.1 < Config.memSize ∧ c.2 ≠ unlistedByte c.1

/-- `get_range(start, len)` = MemRead (R72): the check is on unbounded integers. -/
def Memory.getRange (m : Memory) (start len : Nat) : Except Error (List Byte) :=
  if start + len ≤ Config.memSize then .ok ((List.range len).map fun k => m.byte (start + k))
  else .error (.outOfBounds start len)

/-- Whether [start, start + n) meets the font table 0x000..0x04F (R76). -/
def meetsFont (start n : Nat) : Bool := decide (start < Config.fontLen ∧ 0 < n)

/-- `set_range(start, data)` = MemWrite (R73): capacity first, then font protection (R76), then all bytes at once. -/
def Memory.setRange (m : Memory) (fw : FontWrite) (start : Nat) (data : List Byte) : Except Error Memory :=
  if Config.memSize < start + data.length then .error (.exceedsCapacity start data.length)
  else if fw = .fault ∧ meetsFont start data.length then .error (.readOnly start data.length)
  else .ok (m.putBytes start data)

/-- `set_byte(a, v)` = `set_range(a, [v])` (R73). -/
def Memory.setByte (m : Memory) (fw : FontWrite) (a : Nat) (v : Byte) : Except Error Memory := m.setRange fw a [v]

/-- `clear()`: 0 at 0x200..0xFFF, the rest unchanged (R77); addresses there read 0 when unlisted. -/
def Memory.clear (m : Memory) : Memory := { cells := m.cells.filter fun c => c.1 < Config.progBase }

/-- An instruction's MemWrite under the machine's `font_write` (R75, R76). -/
def State.store (s : State) (start : Nat) (data : List Byte) : Except Error State :=
  (s.mem.setRange s.params.fontWrite start data).map fun m => { s with mem := m }

/-! ### Raising an error (60_exceptions.md R300, R302) -/

/-- The numeric code of an error (R300). -/
def Error.code : Error → Nat
  | .badCode _ => 1
  | .invalidRegister _ => 2
  | .outOfBounds _ _ => 3
  | .exceedsCapacity _ _ => 4
  | .readOnly _ _ => 5
  | .unimplemented _ _ => 6
  | .stackOverflow _ => 7
  | .stackUnderflow _ => 8
  | .programTooLarge _ => 9

/-- The class of an error (R300). -/
def Error.errorClass : Error → ErrorClass
  | .badCode _ => .decodeError
  | .invalidRegister _ => .registerError
  | .outOfBounds _ _ | .exceedsCapacity _ _ | .readOnly _ _ => .memoryError
  | .unimplemented _ _ => .unimplemented
  | .stackOverflow _ | .stackUnderflow _ => .stackError
  | .programTooLarge _ => .programError

/-- The kind of an error, as R300 names it. -/
def Error.kind : Error → String
  | .badCode _ => "BadCode"
  | .invalidRegister _ => "InvalidRegister"
  | .outOfBounds _ _ => "OutOfBounds"
  | .exceedsCapacity _ _ => "ExceedsCapacity"
  | .readOnly _ _ => "ReadOnly"
  | .unimplemented .skp _ => "SKP"
  | .unimplemented .sknp _ => "SKNP"
  | .unimplemented .ldk _ => "LDK"
  | .unimplemented .sys _ => "SYS"
  | .stackOverflow _ => "Overflow"
  | .stackUnderflow _ => "Underflow"
  | .programTooLarge _ => "TooLarge"

/-- Fault entry (R302): every write of the step is discarded, `pc` keeps the instruction's address, and the latch
records the error, that address, and the word if it was fetched. `s` is the state the step began in. -/
def State.takeFault (s : State) (e : Error) (w : Option Word) : State :=
  { s with fault := some { error := e, addr := s.pc, word := w } }

/-- The end of the latched state (R303, R308): only `reset` and a successful `load_program` clear the latch; there is
no return instruction. -/
def State.clearFault (s : State) : State := { s with fault := none }

/-- How an instruction ends: with its result, or by raising, when the state it began in takes the fault. The word is
the instruction's own, since each word has one meaning (log entry 6). -/
def finish (s : State) (ins : Instr) : Except Error State → Result
  | .ok t => .next t
  | .error e => .next (s.takeFault e (some (encode ins)))

/-! ### Fetch (40_control_flow.md R140) -/

/-- MemRead of the two bytes at `pc` as a big-endian word (R140, 20_memory.md R74). -/
def State.fetch (s : State) : Except Error Word :=
  (s.mem.getRange s.pc.toNat 2).map fun bs => wordOfBytes (bs.getD 0 0) (bs.getD 1 0)

end Sys2Proof.Machine
end

