-- ==== Sys2Proof/Machine/Flags.lean ====
section
/-! DEFINITION. Every flag computation (spec 41_alu.md R161, R177 to R180, 43_display.md R241). -/

namespace Sys2Proof.Machine

/-- A flag as VF holds it: 1 or 0. -/
def flagByte (b : Bool) : Byte := if b then 1 else 0

/-- VF as flag receives a bit (10_state.md R32). -/
def State.setFlag (s : State) (b : Bool) : State := s.setReg vf (flagByte b)

/-- SUB: 1 iff a > b, strictly, unsigned (R177). -/
def subFlag (a b : Byte) : Bool := decide (b.toNat < a.toNat)

/-- SUBN, a = Vx and b = Vy: 1 iff b > a, or b > 1 under Literal (R179). -/
def subnFlag (rule : SubnFlag) (a b : Byte) : Bool :=
  match rule with
  | .conventional => decide (a.toNat < b.toNat)
  | .literal => decide (1 < b.toNat)

/-- The bit SHR shifts out (R178). -/
def shrOut (a : Byte) : Bool := a.getLsbD 0

/-- The bit SHL shifts out (R180). -/
def shlOut (a : Byte) : Bool := a.getLsbD 7

/-- The flag of a shift, written after the result, under `shift_vf = ShiftedOutBit` only (R178, R180, R161). -/
def State.setShiftFlag (s : State) (out : Bool) : State :=
  match s.params.shiftVf with
  | .unchanged => s
  | .shiftedOutBit => s.setFlag out

end Sys2Proof.Machine
end

