-- ==== Sys2Proof/Machine/Alu.lean ====
section
/-! DEFINITION. The register arithmetic and logic instructions (spec 41_alu.md). Operands are read before any write (00_scope.md R16). -/

namespace Sys2Proof.Machine

/-- LD Vx, kk (R170). -/
def execLd (x : Reg) (kk : Byte) (s : State) : Result := .next (s.advance.setReg x kk)

/-- ADD Vx, kk: mod 256, no flag (R171). -/
def execAdd (x : Reg) (kk : Byte) (s : State) : Result := .next (s.advance.setReg x (s.reg x + kk))

/-- MOV Vx, Vy (R172). -/
def execMov (x y : Reg) (s : State) : Result := .next (s.advance.setReg x (s.reg y))

/-- OR Vx, Vy: VF is not a flag here (R173). -/
def execOr (x y : Reg) (s : State) : Result :=
  let p := s.getPair x y
  .next (s.advance.setReg x (p.1 ||| p.2))

/-- AND Vx, Vy (R174). -/
def execAnd (x y : Reg) (s : State) : Result :=
  let p := s.getPair x y
  .next (s.advance.setReg x (p.1 &&& p.2))

/-- XOR Vx, Vy (R175). -/
def execXor (x y : Reg) (s : State) : Result :=
  let p := s.getPair x y
  .next (s.advance.setReg x (p.1 ^^^ p.2))

/-- ADDV Vx, Vy: mod 256, no flag (R176). -/
def execAddv (x y : Reg) (s : State) : Result :=
  let p := s.getPair x y
  .next (s.advance.setReg x (p.1 + p.2))

/-- SUB Vx, Vy: the flag first, the result second (R177, R161). -/
def execSub (x y : Reg) (s : State) : Result :=
  let p := s.getPair x y
  .next ((s.advance.setFlag (subFlag p.1 p.2)).setReg x (p.1 - p.2))

/-- SUBN Vx, Vy: the flag first, the result second (R179, R161). -/
def execSubn (x y : Reg) (s : State) : Result :=
  let p := s.getPair x y
  .next ((s.advance.setFlag (subnFlag s.params.subnFlag p.1 p.2)).setReg x (p.2 - p.1))

/-- SHR Vx: the result first, the flag (if any) last; y is unused (R178, R161, 30_encoding.md R110). -/
def execShr (x _y : Reg) (s : State) : Result :=
  let a := s.reg x
  .next ((s.advance.setReg x (a >>> 1)).setShiftFlag (shrOut a))

/-- SHL Vx: as SHR, with bit 7 (R180). -/
def execShl (x _y : Reg) (s : State) : Result :=
  let a := s.reg x
  .next ((s.advance.setReg x (a <<< 1)).setShiftFlag (shlOut a))

/-- RND Vx, kk: one free byte AND kk; the draw counter advances (R181). -/
def execRnd (x : Reg) (kk : Byte) (s : State) : Result :=
  .next { s.advance.setReg x (Config.rngDraw s.rngIndex &&& kk) with rngIndex := s.rngIndex + 1 }

end Sys2Proof.Machine
end

