-- ==== Sys2Proof/Machine/Operands.lean ====
section
/-! DEFINITION. Operand forms: immediates, the address of an access, the decimal digits and the glyph address (spec 30_encoding.md R102, 42_index_memory.md R199, R202, R203). -/

namespace Sys2Proof.Machine

/-- An address operand zero-extended to 16 bits (R102). -/
def zextAddr (addr : Addr) : Word := addr.zeroExtend 16

/-- A register value zero-extended to 16 bits (40_control_flow.md R149, 42_index_memory.md R201). -/
def zextByte (b : Byte) : Word := b.zeroExtend 16

/-- The start of every data access: `i`, on unbounded integers (R199). -/
def State.dataAddr (s : State) : Nat := s.i.toNat

/-- Hundreds, tens and ones of a byte (R203). -/
def bcdDigits (v : Byte) : List Byte := [v / 100, v / 10 % 10, v % 10]

/-- The address of the glyph of the low nibble (R202). -/
def glyphAddr (v : Byte) : Word := zextByte (v &&& 0x0F) * 5

end Sys2Proof.Machine
end

