-- ==== Sys2Proof/Machine/Control.lean ====
section
/-! DEFINITION. The control-flow instructions SYS, RET, JP, CALL, JPV0 and the skips (spec 40_control_flow.md). Each meaning starts with pc at the instruction and advances it itself (R140). -/

namespace Sys2Proof.Machine

/-- SYS addr: always Unimplemented (R141). -/
def execSys (addr : Addr) (s : State) : Result :=
  finish s (.sys addr) (.error (.unimplemented .sys (encode (.sys addr))))

/-- RET (R142). -/
def execRet (s : State) : Result := finish s .ret s.advance.popToPc

/-- JP addr (R143). -/
def execJp (addr : Addr) (s : State) : Result := .next (s.jump (zextAddr addr))

/-- CALL addr: pushes pc = a + 2, then jumps (R144). -/
def execCall (addr : Addr) (s : State) : Result :=
  finish s (.call addr) ((s.advance.push s.advance.pc).map fun t => t.jump (zextAddr addr))

/-- JPV0 addr: `addr + V[0]` on 16 bits (R149). -/
def execJpv0 (addr : Addr) (s : State) : Result := .next (s.jump (zextAddr addr + zextByte (s.reg 0)))

/-- SE Vx, kk (R145). -/
def execSe (x : Reg) (kk : Byte) (s : State) : Result := .next (s.advance.skipIf (s.reg x == kk))

/-- SNE Vx, kk (R146). -/
def execSne (x : Reg) (kk : Byte) (s : State) : Result := .next (s.advance.skipIf (s.reg x != kk))

/-- SEV Vx, Vy (R147). -/
def execSev (x y : Reg) (s : State) : Result :=
  let p := s.getPair x y
  .next (s.advance.skipIf (p.1 == p.2))

/-- SNEV Vx, Vy (R148). -/
def execSnev (x y : Reg) (s : State) : Result :=
  let p := s.getPair x y
  .next (s.advance.skipIf (p.1 != p.2))

end Sys2Proof.Machine
end

