-- ==== Sys2Proof/Machine/Display.lean ====
section
/-! DEFINITION. The framebuffer engine and the display instructions CLS and DRW (spec 43_display.md). -/

namespace Sys2Proof.Machine

/-- `pix[y][x]`. -/
def Framebuffer.pixel (fb : Framebuffer) (y x : Nat) : Bool := (fb.rows.getD y []).getD x false

/-- `pix[y][x] <- b`. -/
def Framebuffer.setPixel (fb : Framebuffer) (y x : Nat) (b : Bool) : Framebuffer :=
  { fb with rows := fb.rows.modify y fun row => row.set x b }

/-- W and H are at least 1, there are H rows, and every row has W pixels (10_state.md R47, R48). -/
abbrev Framebuffer.wf (fb : Framebuffer) : Prop :=
  1 ≤ fb.width ∧ 1 ≤ fb.height ∧ fb.rows.length = fb.height ∧ ∀ row ∈ fb.rows, row.length = fb.width

/-- `clear()`: every pixel false, W and H unchanged (R231). -/
def Framebuffer.clear (fb : Framebuffer) : Framebuffer :=
  { fb with rows := List.replicate fb.height (List.replicate fb.width false) }

/-- `resize(w, h)`: pixels inside both sizes kept, new ones clear, refused for a zero dimension (R236). -/
def Framebuffer.resize (fb : Framebuffer) (w h : Nat) : Framebuffer :=
  if 1 ≤ w ∧ 1 ≤ h then
    { width := w, height := h
      rows := (List.range h).map fun py => (List.range w).map fun px =>
        if py < fb.height ∧ px < fb.width then fb.pixel py px else false }
  else fb

/-- One bit of a sprite: its row, its column within the byte, its value. -/
structure SpriteBit where
  row : Nat
  col : Nat
  bit : Bool
  deriving DecidableEq, Repr

/-- The bits of one sprite byte, most significant first (R232). -/
def byteBits (row : Nat) (b : Byte) : List SpriteBit :=
  (List.range 8).map fun k => { row := row, col := k, bit := b.getLsbD (7 - k) }

/-- The bits of a sprite in the order R232 visits them: row by row from `row` on. -/
def spriteBits (row : Nat) : List Byte → List SpriteBit
  | [] => []
  | b :: bs => byteBits row b ++ spriteBits (row + 1) bs

/-- One pixel update of R232: XOR at the wrapped place (R230), and whether a set pixel was cleared (R233). -/
def visitBit (sx sy : Nat) (st : Framebuffer × Bool) (sb : SpriteBit) : Framebuffer × Bool :=
  let px := (sx + sb.col) % st.1.width
  let py := (sy + sb.row) % st.1.height
  let old := st.1.pixel py px
  let new := xor old sb.bit
  (st.1.setPixel py px new, st.2 || (old && !new))

/-- `draw_bytes_at(sx, sy, bytes)`: the new framebuffer and the collision bit (R232). -/
def Framebuffer.drawBytesAt (fb : Framebuffer) (sx sy : Nat) (bytes : List Byte) : Framebuffer × Bool :=
  (spriteBits 0 bytes).foldl (visitBit sx sy) (fb, false)

/-- DRW's effect once its bytes are read: the blit, then VF = the collision bit (R241). -/
def State.drawSprite (s : State) (sx sy : Byte) (bytes : List Byte) : State :=
  let drawn := s.fb.drawBytesAt sx.toNat sy.toNat bytes
  { s with fb := drawn.1 }.setFlag drawn.2

/-- CLS (R240). -/
def execCls (s : State) : Result := .next { s.advance with fb := s.fb.clear }

/-- DRW Vx, Vy, n (R241): coordinates are read before VF is written; the read check precedes any pixel change. -/
def execDrw (x y : Reg) (n : Nibble) (s : State) : Result :=
  let p := s.getPair x y
  finish s (.drw x y n)
    ((s.mem.getRange s.dataAddr n.toNat).map fun bytes => s.advance.drawSprite p.1 p.2 bytes)

end Sys2Proof.Machine
end

