-- ==== Sys2Proof/Machine/Index.lean ====
section
/-! DEFINITION. The index-register and memory instructions (spec 42_index_memory.md). -/

namespace Sys2Proof.Machine

/-- LDI addr (R200). -/
def execLdi (addr : Addr) (s : State) : Result := .next (s.advance.setI (zextAddr addr))

/-- ADDI Vx: mod 65536, no flag (R201). -/
def execAddi (x : Reg) (s : State) : Result := .next (s.advance.setI (s.i + zextByte (s.reg x)))

/-- LDF Vx (R202). -/
def execLdf (x : Reg) (s : State) : Result := .next (s.advance.setI (glyphAddr (s.reg x)))

/-- LDB Vx: three bytes as one range (R203). -/
def execLdb (x : Reg) (s : State) : Result :=
  finish s (.ldb x) (s.advance.store s.dataAddr (bcdDigits (s.reg x)))

/-- LDIV: all 16 registers to memory at i; the word's x is kept for the fault record and otherwise unused (R206, R110). -/
def execLdiv (x : Reg) (s : State) : Result :=
  finish s (.ldiv x) (s.advance.store s.dataAddr s.asBytes)

/-- LDVI: all 16 registers from memory at i; x as in LDIV (R207, R110). -/
def execLdvi (x : Reg) (s : State) : Result :=
  finish s (.ldvi x) ((s.mem.getRange s.dataAddr 16).map fun bytes => s.advance.setBytes bytes)

end Sys2Proof.Machine
end

