-- ==== Sys2Proof/Machine/Keys.lean ====
section
/-! DEFINITION. The key instructions: decoded, and raising Unimplemented (spec 45_unimplemented.md). The word's x is unused but for the record. -/

namespace Sys2Proof.Machine

/-- SKP Vx (R280). -/
def execSkp (x : Reg) (s : State) : Result :=
  finish s (.skp x) (.error (.unimplemented .skp (encode (.skp x))))

/-- SKNP Vx (R281). -/
def execSknp (x : Reg) (s : State) : Result :=
  finish s (.sknp x) (.error (.unimplemented .sknp (encode (.sknp x))))

/-- LDK Vx: faults at once, never waits (R282). -/
def execLdk (x : Reg) (s : State) : Result :=
  finish s (.ldk x) (.error (.unimplemented .ldk (encode (.ldk x))))

end Sys2Proof.Machine
end

