-- ==== Sys2Proof/Machine/Timers.lean ====
section
/-! DEFINITION. The timed registers and the timer instructions LDD, LDDV, LDS (spec 44_timers.md, 60_exceptions.md R320 to R324). -/

namespace Sys2Proof.Machine

/-- `get()` (R320). -/
def Timer.get (t : Timer) : Byte := t.value

/-- `set(v)` (R321): the running process is superseded and the phase starts anew, by a freely drawn gap; `set(0)` leaves
no process running. `gap` is the register's free value. -/
def Timer.set (gap : Nat → Nat) (t : Timer) (v : Byte) : Timer :=
  if v = 0 then { value := 0, phase := 0, draws := t.draws }
  else { value := v, phase := gap t.draws, draws := t.draws + 1 }

/-- `tick` (R322): enabled only when value > 0; at 0 the process ends. -/
def Timer.tick (gap : Nat → Nat) (t : Timer) : Timer :=
  if t.value = 0 then t else t.set gap (t.value - 1)

/-- The ticks of one step boundary, at most `fuel` of them: a register whose phase is 0 ticks and draws its next gap;
one whose phase is not yet 0 lets the boundary pass. -/
def Timer.elapseFor (gap : Nat → Nat) : Nat → Timer → Timer
  | 0, t => t
  | fuel + 1, t =>
    if t.phase = 0 then Timer.elapseFor gap fuel (t.tick gap) else { t with phase := t.phase - 1 }

/-- What happens to a timed register between two steps (R324): any number of ticks, and, since every gap is a number,
always a tick after finitely many steps while value > 0 (weak fairness). -/
def Timer.elapse (gap : Nat → Nat) (t : Timer) : Timer := Timer.elapseFor gap t.value.toNat t

/-- Both registers between two steps; they are independent (R323). -/
def State.elapse (s : State) : State :=
  { s with delay := s.delay.elapse Config.delayGap, sound := s.sound.elapse Config.soundGap }

/-- The delay process's step as an agent (R322). -/
def State.tickDelay (s : State) : State := { s with delay := s.delay.tick Config.delayGap }

/-- The sound process's step as an agent (R322). -/
def State.tickSound (s : State) : State := { s with sound := s.sound.tick Config.soundGap }

/-- `Delay.set(v)`. -/
def State.setDelay (s : State) (v : Byte) : State := { s with delay := s.delay.set Config.delayGap v }

/-- `Sound.set(v)`. -/
def State.setSound (s : State) (v : Byte) : State := { s with sound := s.sound.set Config.soundGap v }

/-- LDD Vx (R260). -/
def execLdd (x : Reg) (s : State) : Result := .next (s.advance.setReg x s.delay.get)

/-- LDDV Vx (R261). -/
def execLddv (x : Reg) (s : State) : Result := .next (s.advance.setDelay (s.reg x))

/-- LDS Vx (R262). -/
def execLds (x : Reg) (s : State) : Result := .next (s.advance.setSound (s.reg x))

end Sys2Proof.Machine
end

