-- ==== Sys2Proof/Machine/Dispatch.lean ====
section
/-! DEFINITION. The meaning of each instruction, one arm per constructor. -/

namespace Sys2Proof.Machine

-- The execute half of a step (40_control_flow.md R140): s.pc is the instruction's own address.
def exec (i : Instr) (s : State) : Host.Outcome State Fault Refusal :=
  match i with
  | .cls => Sys2Proof.Machine.execCls s
  | .ret => Sys2Proof.Machine.execRet s
  | .sys addr => Sys2Proof.Machine.execSys addr s
  | .jp addr => Sys2Proof.Machine.execJp addr s
  | .call addr => Sys2Proof.Machine.execCall addr s
  | .se x kk => Sys2Proof.Machine.execSe x kk s
  | .sne x kk => Sys2Proof.Machine.execSne x kk s
  | .sev x y => Sys2Proof.Machine.execSev x y s
  | .snev x y => Sys2Proof.Machine.execSnev x y s
  | .ld x kk => Sys2Proof.Machine.execLd x kk s
  | .add x kk => Sys2Proof.Machine.execAdd x kk s
  | .mov x y => Sys2Proof.Machine.execMov x y s
  | .or x y => Sys2Proof.Machine.execOr x y s
  | .and x y => Sys2Proof.Machine.execAnd x y s
  | .xor x y => Sys2Proof.Machine.execXor x y s
  | .addv x y => Sys2Proof.Machine.execAddv x y s
  | .sub x y => Sys2Proof.Machine.execSub x y s
  | .shr x y => Sys2Proof.Machine.execShr x y s
  | .subn x y => Sys2Proof.Machine.execSubn x y s
  | .shl x y => Sys2Proof.Machine.execShl x y s
  | .ldi addr => Sys2Proof.Machine.execLdi addr s
  | .jpv0 addr => Sys2Proof.Machine.execJpv0 addr s
  | .rnd x kk => Sys2Proof.Machine.execRnd x kk s
  | .drw x y n => Sys2Proof.Machine.execDrw x y n s
  | .skp x => Sys2Proof.Machine.execSkp x s
  | .sknp x => Sys2Proof.Machine.execSknp x s
  | .ldd x => Sys2Proof.Machine.execLdd x s
  | .ldk x => Sys2Proof.Machine.execLdk x s
  | .lddv x => Sys2Proof.Machine.execLddv x s
  | .lds x => Sys2Proof.Machine.execLds x s
  | .addi x => Sys2Proof.Machine.execAddi x s
  | .ldf x => Sys2Proof.Machine.execLdf x s
  | .ldb x => Sys2Proof.Machine.execLdb x s
  | .ldiv x => Sys2Proof.Machine.execLdiv x s
  | .ldvi x => Sys2Proof.Machine.execLdvi x s

end Sys2Proof.Machine
end

