-- ==== Sys2Proof/Machine/Engine.lean ====
section
/-! DEFINITION. One step of the execute engine: fetch, decode, execute (spec 40_control_flow.md R140). -/

namespace Sys2Proof.Machine

/-- The error that stands for a decode error (60_exceptions.md R300, code 1). -/
def decodeRaise : DecodeError → Error
  | .badCode w => .badCode w

/-- Decode and execute a fetched word (R140, 30_encoding.md R104). -/
def State.runWord (s : State) (w : Word) : Result :=
  match decode s.params.sysMode w with
  | .ok ins => exec ins s
  | .error e => .next (s.takeFault (decodeRaise e) (some w))

/-- The engine's part of `step()`, no fault being latched; errors are taken in the order fetch, decode, execute
(R140, 60_exceptions.md R305). -/
def State.engineStep (s : State) : Result :=
  match s.fetch with
  | .ok w => s.runWord w
  | .error e => .next (s.takeFault e none)

/-- A word placed where the engine fetches next, the latch open so that it does (log entry 9). -/
def State.placeWord (s : State) (w : Word) : State :=
  { s.clearFault with mem := s.mem.putBytes s.pc.toNat [highByte w, lowByte w] }

end Sys2Proof.Machine
end

