-- ==== Sys2Proof/Machine/Step.lean ====
section
/-! DEFINITION. One step of the machine: the timers' ticks since the last step, then the engine's step (spec 40_control_flow.md R140, 60_exceptions.md R303, R324). -/

namespace Sys2Proof.Machine

/-- One step: none while a fault is latched (R303); otherwise any ticks of the two timers, then the engine
(R324, log entry 4). -/
def step (s : State) : Host.Outcome State Fault Refusal :=
  match s.fault with
  | some r => .fault (.latched r)
  | none => s.elapse.engineStep

/-- `s` with a table word stored where `step` fetches its next instruction. -/
def State.withFetchWord (s : State) (nbits w : Nat) : State :=
  s.placeWord (BitVec.ofNat 16 (w % 2 ^ nbits))

end Sys2Proof.Machine
end

