-- ==== Sys2Proof/Machine/Agents.lean ====
section
/-! DEFINITION. The four agents and the host's operations (spec 00_scope.md R11, R12, 70_reset_and_hazards.md R350 to R357, 60_exceptions.md R322 to R331). -/

namespace Sys2Proof.Machine

/-- `reset()` (R350): the font, 0x050..0x1FF, the display's size and the parameters stay; the free values' counters go
on (log entry 12). -/
def hostReset (s : State) : State :=
  { s.clearFault with
    pc := 0x200
    i := 0
    sp := 0
    stack := Vector.replicate 16 0
    V := Vector.replicate 16 0
    delay := s.delay.set Config.delayGap 0
    sound := s.sound.set Config.soundGap 0
    mem := s.mem.clear
    fb := s.fb.clear }

/-- `load_program(bytes)` (R353): too large a program is rejected before anything changes. -/
def loadProgram (s : State) (bytes : List Byte) : Except Error State :=
  if Config.progMax < bytes.length then .error (.programTooLarge bytes.length)
  else .ok { hostReset s with mem := (hostReset s).mem.putBytes Config.progBase bytes }

/-- `resize(w, h)` (43_display.md R236). -/
def hostResize (s : State) (w h : Nat) : State := { s with fb := s.fb.resize w h }

/-- Creation with given parameters and an 80-byte font table (R351, 00_scope.md R9). -/
def State.create (p : Params) (font : Vector Byte 80) : State :=
  { State.reset with params := p, mem := State.reset.mem.putBytes 0 font.toList }

/-- What an agent can do, one atomic action each (R12, R357). -/
inductive Event where
  | step
  | tickDelay
  | tickSound
  | reset
  | load (bytes : List Byte)
  | resize (w h : Nat)
  | pollFramebuffer
  | pollDelay
  | pollSound
  | readMemory (start len : Nat)
  deriving DecidableEq, Repr

/-- What the host gets back (R357). -/
inductive Reply where
  | ok
  | refused
  | fault (record : FaultRecord)
  | error (e : Error)
  | framebuffer (fb : Framebuffer)
  | timer (value : Byte)
  | bytes (bs : List Byte)
  deriving DecidableEq, Repr

/-- The reply to a step that answered (R357: Ok, or the fault record). -/
def stepReply (s : State) : Reply :=
  match s.fault with
  | some r => .fault r
  | none => .ok

/-- `step()` as the host calls it: while a fault is latched nothing changes and the record is returned (R303). The
engine always answers a next state; the last two arms keep the function total. -/
def hostStep (s : State) : State × Reply :=
  match s.fault with
  | some r => (s, .fault r)
  | none =>
    match s.engineStep with
    | .next t => (t, stepReply t)
    | .fault (.latched r) => (s, .fault r)
    | .refused _ => (s, .refused)

/-- One atomic action of one agent (R12). Every interleaving of actions is a run of the whole machine: the untimed
model of R324 without any choice of schedule. A tick of a register at 0 is not enabled and changes nothing. -/
def act (e : Event) (s : State) : State × Reply :=
  match e with
  | .step => hostStep s
  | .tickDelay => (s.tickDelay, .ok)
  | .tickSound => (s.tickSound, .ok)
  | .reset => (hostReset s, .ok)
  | .load bytes =>
    match loadProgram s bytes with
    | .ok t => (t, .ok)
    | .error e => (s, .error e)
  | .resize w h => (hostResize s w h, if 1 ≤ w ∧ 1 ≤ h then .ok else .refused)
  | .pollFramebuffer => (s, .framebuffer s.fb)
  | .pollDelay => (s, .timer s.delay.get)
  | .pollSound => (s, .timer s.sound.get)
  | .readMemory start len =>
    match s.mem.getRange start len with
    | .ok bs => (s, .bytes bs)
    | .error e => (s, .error e)

/-- A sequence of actions, first action first. -/
def runEvents : List Event → State → State
  | [], s => s
  | e :: es, s => runEvents es (act e s).1

end Sys2Proof.Machine
end

