-- ==== Sys2Proof/Machine/Timed.lean ====
section
/-! DEFINITION. The optional timed refinement of a timed register (spec 60_exceptions.md R325, 92 D27). The machine's step does not use it (log entry 14). -/

namespace Sys2Proof.Machine

/-- A timed register with its age: the time since its last decrement or `set`, in units of which a tick period has
`period` (so that any time is a multiple of a fine enough unit). -/
structure TimedTimer where
  value : Byte
  age   : Nat
  deriving DecidableEq, Repr

/-- `set(v)` restarts the phase: the next decrement lands one full period later (R321, R325). -/
def TimedTimer.set (_t : TimedTimer) (v : Byte) : TimedTimer := { value := v, age := 0 }

/-- Time passes: one decrement at the end of each period, until 0. -/
def TimedTimer.advance (period dt : Nat) (t : TimedTimer) : TimedTimer :=
  let total := t.age + dt
  if t.value.toNat ≤ total / period then { value := 0, age := 0 }
  else { value := BitVec.ofNat 8 (t.value.toNat - total / period), age := total % period }

end Sys2Proof.Machine
end

