-- ==== Sys2Proof/Safety.lean ====
section
/-! DEFINITION. What claims about the machine use: the invariant of a reachable state, frames, reachability, the end of a run, and what the model's own fields hide. -/

namespace Sys2Proof.Machine

/-- A register that is not counting has no phase (spec 10_state.md R50). -/
abbrev Timer.wf (t : Timer) : Prop := t.value = 0 → t.phase = 0

/-- The invariant of the machine: memory is canonical, the framebuffer is H rows of W pixels with W, H at least 1
(10_state.md R47, R48), and timers at 0 are idle (R50). -/
abbrev State.Inv (s : State) : Prop := s.mem.wf ∧ s.fb.wf ∧ s.delay.wf ∧ s.sound.wf

/-- No fault is latched: the run is clean so far (60_exceptions.md R303). -/
abbrev State.clean (s : State) : Prop := s.fault = none

/-- Every register outside `rs` is unchanged. -/
def regsKept (rs : List Reg) (s t : State) : Prop := ∀ r, r ∉ rs → t.reg r = s.reg r

/-- Every byte of memory is unchanged. -/
def memKept (s t : State) : Prop := ∀ a, t.mem.byte a = s.mem.byte a

/-- Every byte of memory outside [start, start + n) is unchanged. -/
def memKeptOutside (start n : Nat) (s t : State) : Prop :=
  ∀ a, a < start ∨ start + n ≤ a → t.mem.byte a = s.mem.byte a

/-- The call stack is unchanged. -/
def stackKept (s t : State) : Prop := t.sp = s.sp ∧ t.stack = s.stack

/-- Both timed registers are unchanged. -/
def timersKept (s t : State) : Prop := t.delay = s.delay ∧ t.sound = s.sound

/-- What no instruction that completes writes: the fault latch and the parameters. -/
def latchKept (s t : State) : Prop := t.fault = s.fault ∧ t.params = s.params

/-- Everything but the registers, `pc` and the draw counter is unchanged: the frame of an instruction that writes
registers only. -/
def onlyRegs (s t : State) : Prop :=
  t.i = s.i ∧ stackKept s t ∧ memKept s t ∧ t.fb = s.fb ∧ timersKept s t ∧ latchKept s t

/-- Everything but `pc` is unchanged. -/
def onlyPc (s t : State) : Prop := t.V = s.V ∧ t.rngIndex = s.rngIndex ∧ onlyRegs s t

/-- Every register, the draw counter, the stack, the latch and the parameters are unchanged. -/
def coreKept (s t : State) : Prop := t.V = s.V ∧ t.rngIndex = s.rngIndex ∧ stackKept s t ∧ latchKept s t

/-- The word at `pc` (40_control_flow.md R140, 20_memory.md R74): its two bytes lie in memory, the first is bits 15..8. -/
abbrev State.wordAtPc (s : State) (w : Word) : Prop :=
  s.pc.toNat + 2 ≤ Config.memSize ∧ w.toNat = (s.mem.byte s.pc.toNat).toNat * 256 + (s.mem.byte (s.pc.toNat + 1)).toNat

/-- `pc` is two past where it was, mod 65536 (40_control_flow.md R140). -/
def nextPc (s t : State) : Prop := t.pc.toNat = (s.pc.toNat + 2) % 65536

/-- `t` is `s` with the fault latched: every other piece of state as before, `pc` still at the instruction
(60_exceptions.md R302). -/
def raises (s t : State) (e : Error) (w : Option Word) : Prop :=
  t = { s with fault := some { error := e, addr := s.pc, word := w } }

/-- Which errors an instruction's execute part may raise (60_exceptions.md R301). -/
def mayRaise (ins : Instr) (e : Error) : Prop :=
  match ins with
  | .call _ => e = .stackOverflow 16
  | .ret => e = .stackUnderflow 0
  | .drw _ _ _ | .ldvi _ => ∃ start len, e = .outOfBounds start len
  | .ldb _ | .ldiv _ => ∃ start len, e = .exceedsCapacity start len ∨ e = .readOnly start len
  | .skp x => e = .unimplemented .skp (encode (.skp x))
  | .sknp x => e = .unimplemented .sknp (encode (.sknp x))
  | .ldk x => e = .unimplemented .ldk (encode (.ldk x))
  | .sys a => e = .unimplemented .sys (encode (.sys a))
  | .cls | .jp _ | .se _ _ | .sne _ _ | .sev _ _ | .snev _ _ | .ld _ _ | .add _ _ | .mov _ _ | .or _ _ | .and _ _
  | .xor _ _ | .addv _ _ | .sub _ _ | .shr _ _ | .subn _ _ | .shl _ _ | .ldi _ | .jpv0 _ | .rnd _ _ | .ldd _
  | .lddv _ | .lds _ | .addi _ | .ldf _ => False

/-- The register an instruction names as its destination (10_state.md R32): LDVI writes all of them as data. -/
def hasDest (ins : Instr) (r : Reg) : Prop :=
  match ins with
  | .ld x _ | .add x _ | .mov x _ | .or x _ | .and x _ | .xor x _ | .addv x _ | .sub x _ | .shr x _ | .subn x _
  | .shl x _ | .rnd x _ | .ldd x => r = x
  | .ldvi _ => True
  | .cls | .ret | .sys _ | .jp _ | .call _ | .se _ _ | .sne _ _ | .sev _ _ | .snev _ _ | .ldi _ | .jpv0 _
  | .drw _ _ _ | .skp _ | .sknp _ | .ldk _ | .lddv _ | .lds _ | .addi _ | .ldf _ | .ldb _ | .ldiv _ => False

/-- The instructions that write VF as a side effect (10_state.md R32). -/
def writesFlag (p : Params) (ins : Instr) : Prop :=
  match ins with
  | .sub _ _ | .subn _ _ | .drw _ _ _ => True
  | .shr _ _ | .shl _ _ => p.shiftVf = .shiftedOutBit
  | .cls | .ret | .sys _ | .jp _ | .call _ | .se _ _ | .sne _ _ | .sev _ _ | .snev _ _ | .ld _ _ | .add _ _
  | .mov _ _ | .or _ _ | .and _ _ | .xor _ _ | .addv _ _ | .ldi _ | .jpv0 _ | .rnd _ _ | .skp _ | .sknp _ | .ldd _
  | .ldk _ | .lddv _ | .lds _ | .addi _ | .ldf _ | .ldb _ | .ldiv _ | .ldvi _ => False

/-- Bit `k` of row `r` of the sprite at `i`, drawn at (sx, sy), is set and lands on the pixel (py, px)
(43_display.md R230, R232). -/
def spriteBitLands (s : State) (sx sy py px r k : Nat) : Bool :=
  (s.mem.byte (s.i.toNat + r)).getLsbD (7 - k) && py == (sy + r) % s.fb.height && px == (sx + k) % s.fb.width

/-- How many set bits of the n-byte sprite at `i`, drawn at (sx, sy), land on the pixel (py, px): more than one only
where the sprite overlaps itself (R234). -/
def spriteCount (s : State) (sx sy n py px : Nat) : Nat :=
  ((List.range n).map fun r => (List.range 8).countP fun k => spriteBitLands s sx sy py px r k).sum

/-- What executing the word 0x0000 raises (70_reset_and_hazards.md R356): SYS 0x000 under `sys_mode = SysFault`, an illegal
word under `SysBadCode`. -/
def zeroWordError (p : Params) : Error :=
  match p.sysMode with
  | .sysFault => .unimplemented .sys 0x0000
  | .sysBadCode => .badCode 0x0000

/-- `pc` and the return addresses in use stay where R38 says they do. -/
def State.pcBounded (s : State) : Prop :=
  s.pc.toNat ≤ 0x10FE ∧ ∀ k (hk : k < 16), k < s.sp.val → s.stack[k].toNat ≤ 0x1000

/-- What a run of the whole machine can reach from a state: any interleaving of the agents' actions (00_scope.md R12,
60_exceptions.md R324). -/
def Reaches (s t : State) : Prop := ∃ es, t = runEvents es s

/-- The self-jump at which a test run is taken as ended (40_control_flow.md R152). -/
def State.atSelfJump (s : State) : Prop := ∃ a : Addr, s.pc = zextAddr a ∧ s.wordAtPc (encode (.jp a))

/-- A run has ended: a fault is latched or the engine stands at a self-jump (R152). -/
def State.runEnded (s : State) : Prop := s.fault ≠ none ∨ s.atSelfJump

/-- The state with the hidden part of its timers set aside: the phases, which no instruction reads (10_state.md R51),
and the model's own gap counters. -/
def State.visible (s : State) : State :=
  { s with delay := { value := s.delay.value, phase := 0, draws := 0 }
           sound := { value := s.sound.value, phase := 0, draws := 0 } }

/-- `n` ticks of a timed register. -/
def Timer.ticks (gap : Nat → Nat) : Nat → Timer → Timer
  | 0, t => t
  | n + 1, t => Timer.ticks gap n (t.tick gap)

end Sys2Proof.Machine
end

