-- ==== Sys2Proof/Certificates/Slice0/Obligations.lean ====
section
/-! DEFINITION. The statements for the provers, from the numbered rules of spec/. -/

open Sys2Proof Sys2Proof.Machine

/-! ## Creation, reset, load -/

/-- R351: creation, for every setting of the parameters and every font table. -/
def Obligations.CreationState : Prop :=
  ∀ (p : Params) (font : Vector Byte 80),
    let s := State.create p font
    s.params = p ∧ s.pc = 0x200 ∧ s.i = 0 ∧ s.sp = 0 ∧ (∀ k (h : k < 16), s.stack[k] = 0) ∧ (∀ r, s.reg r = 0) ∧
    (∀ a (h : a < 80), s.mem.byte a = font[a]) ∧ (∀ a, 80 ≤ a → s.mem.byte a = 0) ∧
    s.fb.width = 64 ∧ s.fb.height = 32 ∧ s.fb.wf ∧ (∀ y x, s.fb.pixel y x = false) ∧
    s.delay.value = 0 ∧ s.sound.value = 0 ∧ s.fault = none

/-- The model's choice (log entries 1, 2, 8): State.reset is the creation state of R351 under the default parameters and
the default font table. -/
def Obligations.ResetIsDefaultCreation : Prop :=
  ∀ font : Vector Byte 80, font.toList = Config.fontTable → State.create Params.default font = State.reset

/-- R350: what the host's reset writes and what it leaves. -/
def Obligations.HostResetReinitializes : Prop :=
  ∀ s : State,
    let t := hostReset s
    t.pc = 0x200 ∧ t.i = 0 ∧ t.sp = 0 ∧ (∀ k (h : k < 16), t.stack[k] = 0) ∧ (∀ r, t.reg r = 0) ∧
    t.delay.value = 0 ∧ t.sound.value = 0 ∧ t.delay.elapse Config.delayGap = t.delay ∧
    t.sound.elapse Config.soundGap = t.sound ∧
    (∀ a, 0x200 ≤ a → t.mem.byte a = 0) ∧ (∀ a, a < 0x200 → t.mem.byte a = s.mem.byte a) ∧
    (∀ y x, t.fb.pixel y x = false) ∧ t.fb.width = s.fb.width ∧ t.fb.height = s.fb.height ∧
    t.fault = none ∧ t.params = s.params

/-- R353: too large a program changes nothing; any other resets the machine and is written at 0x200. -/
def Obligations.LoadProgramWritesAtBase : Prop :=
  ∀ (s : State) (bytes : List Byte), s.mem.wf →
    (3584 < bytes.length →
      loadProgram s bytes = .error (.programTooLarge bytes.length) ∧
      act (.load bytes) s = (s, .error (.programTooLarge bytes.length))) ∧
    (bytes.length ≤ 3584 →
      ∃ t, loadProgram s bytes = .ok t ∧ act (.load bytes) s = (t, .ok) ∧
        t = { hostReset s with mem := t.mem } ∧
        (∀ k, k < bytes.length → t.mem.byte (0x200 + k) = bytes.getD k 0) ∧
        (∀ a, a < 0x200 ∨ 0x200 + bytes.length ≤ a → t.mem.byte a = (hostReset s).mem.byte a))

/-- R354: a load reads back, and neither load nor reset touches the font table. -/
def Obligations.LoadRoundTrip : Prop :=
  ∀ (s t : State) (bytes : List Byte), s.mem.wf → loadProgram s bytes = .ok t →
    t.mem.getRange 0x200 bytes.length = .ok bytes ∧
    ∀ a, a < 0x50 → t.mem.byte a = s.mem.byte a ∧ (hostReset s).mem.byte a = s.mem.byte a

/-- "A step from a reset with no program loaded fetches the word 0x0000 at 0x200" (70_reset_and_hazards.md section 2,
which the spec marks derived), and raises by `sys_mode`: after the host's reset of any state, after a load of 0 bytes,
and after creation. Both timers are at 0 there, so no tick lands before the step. -/
def Obligations.UnloadedMachineRaises : Prop :=
  (∀ s : State, ∃ t, step (hostReset s) = .next t ∧
    raises (hostReset s) t (zeroWordError s.params) (some 0x0000)) ∧
  (∀ s : State, ∃ l t, loadProgram s [] = .ok l ∧ step l = .next t ∧
    raises l t (zeroWordError s.params) (some 0x0000)) ∧
  (∀ (p : Params) (font : Vector Byte 80), ∃ t, step (State.create p font) = .next t ∧
    raises (State.create p font) t (zeroWordError p) (some 0x0000))

/-! ## Decoding -/

/-- R103, R104, R106: no bit of an encoding is dropped. -/
def Obligations.DecodeOfEncode : Prop :=
  ∀ (m : SysMode) (ins : Instr), ins.wf = true → ((∃ a, ins = .sys a) → m = .sysFault) →
    decode m (encode ins) = .ok ins

/-- R104, R110: every word that decodes is the word of what it decodes to, unused fields included. -/
def Obligations.EncodeOfDecode : Prop :=
  ∀ (m : SysMode) (w : Word) (ins : Instr), decode m w = .ok ins → encode ins = w ∧ ins.wf = true

/-- R105, R106 and the opcode table: a word decodes to a mnemonic exactly when that mnemonic's row covers it. -/
def Obligations.DecodeFollowsOpcodeTable : Prop :=
  ∀ (m : SysMode) (w : Word) (mn : String),
    (∃ ins, decode m w = .ok ins ∧ ins.mnemonic = mn) ↔
      ∃ row ∈ opcodeTable, row.mnemonic = mn ∧ row.covers w = true ∧ (mn = "SYS" → m = .sysFault)

/-- The list of 30_encoding.md section 4, which the spec marks derived from R104: exactly the illegal words raise
BadCode, in decoding and when executed: the engine's own step then changes nothing but the latch. The last clause says
the same of `step`, before which the timers may have ticked (log entry 4, the model's choice). -/
def Obligations.IllegalWordsRaiseBadCode : Prop :=
  (∀ (m : SysMode) (w : Word), decode m w = .error (.badCode w) ↔
    ((w.toNat / 4096 = 5 ∨ w.toNat / 4096 = 9) ∧ w.toNat % 16 ≠ 0) ∨
    (w.toNat / 4096 = 8 ∧ w.toNat % 16 ∈ [0x8, 0x9, 0xA, 0xB, 0xC, 0xD, 0xF]) ∨
    (w.toNat / 4096 = 0xE ∧ w.toNat % 256 ∉ [0x9E, 0xA1]) ∨
    (w.toNat / 4096 = 0xF ∧ w.toNat % 256 ∉ [0x07, 0x0A, 0x15, 0x18, 0x1E, 0x29, 0x33, 0x55, 0x65]) ∨
    (m = .sysBadCode ∧ w.toNat / 4096 = 0 ∧ w.toNat ≠ 0x00E0 ∧ w.toNat ≠ 0x00EE)) ∧
  (∀ (s : State) (w : Word), s.fault = none → s.wordAtPc w →
    decode s.params.sysMode w = .error (.badCode w) →
    (∃ t, s.engineStep = .next t ∧ raises s t (.badCode w) (some w)) ∧
    (∃ t, step s = .next t ∧ raises s.elapse t (.badCode w) (some w)))

/-- R104's law: what a word decodes to depends on the word and `sys_mode` alone, not on the machine's state. -/
def Obligations.DecodingIgnoresState : Prop :=
  ∀ (s s' : State) (w : Word), s.wordAtPc w → s'.wordAtPc w → s.params.sysMode = s'.params.sysMode →
    (∃ ins, s.engineStep = exec ins s ∧ s'.engineStep = exec ins s' ∧ encode ins = w) ∨
    (∃ t t', s.engineStep = .next t ∧ s'.engineStep = .next t' ∧
      raises s t (.badCode w) (some w) ∧ raises s' t' (.badCode w) (some w))

/-- Words written out from the table of R106, one of each format and family. -/
def Obligations.DecodedSampleWords : Prop :=
  decode .sysFault 0x00E0 = .ok .cls ∧ decode .sysFault 0x2ABC = .ok (.call 0xABC) ∧
  decode .sysFault 0x3A7F = .ok (.se 0xA 0x7F) ∧ decode .sysFault 0x812E = .ok (.shl 1 2) ∧
  decode .sysFault 0xD125 = .ok (.drw 1 2 5) ∧ decode .sysFault 0xF133 = .ok (.ldb 1) ∧
  decode .sysFault 0xFA15 = .ok (.lddv 0xA) ∧ decode .sysFault 0xE19E = .ok (.skp 1)

/-! ## The step and its errors -/

/-- R140: a step runs the decoded instruction. What stands around exec is the timers' ticks before it, which change
the two timed registers only (R324, log entry 4); the engine's own step has nothing around it. -/
def Obligations.StepRunsDecodedInstruction : Prop :=
  ∀ (s : State) (w : Word) (ins : Instr), s.fault = none → s.wordAtPc w → decode s.params.sysMode w = .ok ins →
    step s = exec ins s.elapse ∧ s.elapse = { s with delay := s.elapse.delay, sound := s.elapse.sound } ∧
    s.engineStep = exec ins s

/-- R140, R302: a fetch past 0xFFE raises OutOfBounds with no word recorded, and the engine's own step changes nothing
but the latch. The last clause says the same of `step`, before which the timers may have ticked (log entry 4, the
model's choice). -/
def Obligations.FetchBeyondMemoryRaises : Prop :=
  ∀ s : State, s.fault = none → 4096 < s.pc.toNat + 2 →
    (∃ t, s.engineStep = .next t ∧ raises s t (.outOfBounds s.pc.toNat 2) none) ∧
    (∃ t, step s = .next t ∧ raises s.elapse t (.outOfBounds s.pc.toNat 2) none)

/-- R302: a raise is precise: the faulting step changes nothing but the latch, which records the address and the word
fetched, if one was. -/
def Obligations.FaultsArePrecise : Prop :=
  ∀ (s t : State) (r : FaultRecord), s.fault = none → s.engineStep = .next t → t.fault = some r →
    t = { s with fault := some r } ∧ r.addr = s.pc ∧ (r.word = none ↔ 4096 < s.pc.toNat + 2) ∧
    ∀ w, s.wordAtPc w → r.word = some w

/-- R303: while a fault is latched no step is taken; only reset and a successful load clear the latch; timers and
polls go on. -/
def Obligations.LatchedMachineTakesNoStep : Prop :=
  ∀ (s : State) (r : FaultRecord), s.fault = some r →
    step s = .fault (.latched r) ∧ act .step s = (s, .fault r) ∧
    (∀ e, e ≠ .reset → (∀ bytes, bytes.length ≤ 3584 → e ≠ .load bytes) → (act e s).1.fault = some r) ∧
    (act .reset s).1.fault = none ∧
    (∀ bytes, bytes.length ≤ 3584 → (act (.load bytes) s).1.fault = none) ∧
    (act .tickDelay s).1.delay.value.toNat = s.delay.value.toNat - 1 ∧
    (act .tickSound s).1.sound.value.toNat = s.sound.value.toNat - 1 ∧
    act .pollFramebuffer s = (s, .framebuffer s.fb) ∧ act .pollDelay s = (s, .timer s.delay.value) ∧
    act .pollSound s = (s, .timer s.sound.value)

/-- The list of 60_exceptions.md section 1, which the spec marks derived from the instructions' rules: which errors each
instruction raises, and that every step can also raise at its fetch and its decoding. -/
def Obligations.ErrorsPerInstruction : Prop :=
  (∀ (ins : Instr) (s t : State), exec ins s = .next t →
    t.fault = s.fault ∨ ∃ e, mayRaise ins e ∧ raises s t e (some (encode ins))) ∧
  (∀ (s t : State) (r : FaultRecord), s.fault = none → s.engineStep = .next t → t.fault = some r →
    r.error = .outOfBounds s.pc.toNat 2 ∨ (∃ w, s.wordAtPc w ∧ r.error = .badCode w) ∨
    ∃ w ins, s.wordAtPc w ∧ decode s.params.sysMode w = .ok ins ∧ mayRaise ins r.error) ∧
  (∀ (ins : Instr) (s : State), (∃ x, ins = .skp x ∨ ins = .sknp x ∨ ins = .ldk x) ∨ (∃ a, ins = .sys a) →
    ∃ t v, exec ins s = .next t ∧ raises s t (.unimplemented v (encode ins)) (some (encode ins)))

/-- No instruction stops the machine: exec answers a next state for every instruction and state, and step stops only on
a latched fault (R140, R303). -/
def Obligations.InstructionsNeverStop : Prop :=
  (∀ (ins : Instr) (s : State), ∃ t, exec ins s = .next t) ∧
  (∀ s : State, s.fault = none → ∃ t, step s = .next t)

/-- R141: SYS decodes under SysFault only, and raises Unimplemented; a word of zeros is SYS 0x000. -/
def Obligations.SysRaisesUnimplemented : Prop :=
  (∀ (a : Addr) (s : State), ∃ t, exec (.sys a) s = .next t ∧
    raises s t (.unimplemented .sys (encode (.sys a))) (some (encode (.sys a)))) ∧
  (∀ a : Addr, a ≠ 0x0E0 → a ≠ 0x0EE →
    (encode (.sys a)).toNat = a.toNat ∧ decode .sysFault (encode (.sys a)) = .ok (.sys a) ∧
    decode .sysBadCode (encode (.sys a)) = .error (.badCode (encode (.sys a)))) ∧
  decode .sysFault 0x0000 = .ok (.sys 0)

/-- R280, R281, R282: the key instructions raise Unimplemented with their own word, whatever x is. -/
def Obligations.KeyInstructionsRaise : Prop :=
  ∀ (x : Reg) (s : State),
    (∃ t w, exec (.skp x) s = .next t ∧ raises s t (.unimplemented .skp w) (some w) ∧
      w.toNat = 0xE09E + x.val * 256) ∧
    (∃ t w, exec (.sknp x) s = .next t ∧ raises s t (.unimplemented .sknp w) (some w) ∧
      w.toNat = 0xE0A1 + x.val * 256) ∧
    (∃ t w, exec (.ldk x) s = .next t ∧ raises s t (.unimplemented .ldk w) (some w) ∧
      w.toNat = 0xF00A + x.val * 256)

/-! ## Control flow -/

/-- R143, R149: JP and JPV0. -/
def Obligations.JumpsSetPc : Prop :=
  ∀ (a : Addr) (s : State),
    (∃ t, exec (.jp a) s = .next t ∧ t.pc.toNat = a.toNat ∧ onlyPc s t) ∧
    (∃ t, exec (.jpv0 a) s = .next t ∧ t.pc.toNat = a.toNat + (s.reg 0).toNat ∧ t.pc.toNat ≤ 0x10FE ∧ onlyPc s t)

/-- R145 to R148: the skips. -/
def Obligations.SkipsAdvancePc : Prop :=
  ∀ (x y : Reg) (kk : Byte) (s : State),
    (∃ t, exec (.se x kk) s = .next t ∧ onlyPc s t ∧
      t.pc.toNat = (s.pc.toNat + if s.reg x = kk then 4 else 2) % 65536) ∧
    (∃ t, exec (.sne x kk) s = .next t ∧ onlyPc s t ∧
      t.pc.toNat = (s.pc.toNat + if s.reg x ≠ kk then 4 else 2) % 65536) ∧
    (∃ t, exec (.sev x y) s = .next t ∧ onlyPc s t ∧
      t.pc.toNat = (s.pc.toNat + if s.reg x = s.reg y then 4 else 2) % 65536) ∧
    (∃ t, exec (.snev x y) s = .next t ∧ onlyPc s t ∧
      t.pc.toNat = (s.pc.toNat + if s.reg x ≠ s.reg y then 4 else 2) % 65536)

/-- R144: CALL. -/
def Obligations.CallPushesReturnAddress : Prop :=
  ∀ (a : Addr) (s : State),
    (s.sp.val < 16 →
      ∃ t, exec (.call a) s = .next t ∧ t.pc.toNat = a.toNat ∧ t.sp.val = s.sp.val + 1 ∧
        (∀ k (hk : k < 16), k = s.sp.val → t.stack[k].toNat = (s.pc.toNat + 2) % 65536) ∧
        (∀ k (hk : k < 16), k ≠ s.sp.val → t.stack[k] = s.stack[k]) ∧
        t.V = s.V ∧ t.rngIndex = s.rngIndex ∧ t.i = s.i ∧ memKept s t ∧ t.fb = s.fb ∧ timersKept s t ∧
        latchKept s t) ∧
    (s.sp.val = 16 →
      ∃ t, exec (.call a) s = .next t ∧ raises s t (.stackOverflow 16) (some (encode (.call a))))

/-- R142: RET. -/
def Obligations.RetPopsReturnAddress : Prop :=
  ∀ s : State,
    (∀ k (hk : k < 16), s.sp.val = k + 1 →
      ∃ t, exec .ret s = .next t ∧ t.sp.val = k ∧ t.pc = s.stack[k] ∧ t.stack = s.stack ∧
        t.V = s.V ∧ t.rngIndex = s.rngIndex ∧ t.i = s.i ∧ memKept s t ∧ t.fb = s.fb ∧ timersKept s t ∧
        latchKept s t) ∧
    (s.sp.val = 0 → ∃ t, exec .ret s = .next t ∧ raises s t (.stackUnderflow 0) (some 0x00EE))

/-- The stack law (R142, R144): a RET that finds the stack as a CALL left it returns behind that CALL. -/
def Obligations.CallThenRetReturns : Prop :=
  ∀ (a : Addr) (s t u : State), s.sp.val < 16 → exec (.call a) s = .next t → u.sp = t.sp → u.stack = t.stack →
    ∃ v, exec .ret u = .next v ∧ v.pc = s.pc + 2 ∧ v.sp = s.sp ∧ v.V = u.V ∧ v.fault = u.fault

/-! ## Arithmetic and logic -/

/-- R170, R172: LD and MOV. -/
def Obligations.LoadAndMoveWriteVx : Prop :=
  ∀ (x y : Reg) (kk : Byte) (s : State),
    (∃ t, exec (.ld x kk) s = .next t ∧ t.reg x = kk ∧
      regsKept [x] s t ∧ t.rngIndex = s.rngIndex ∧ nextPc s t ∧ onlyRegs s t) ∧
    (∃ t, exec (.mov x y) s = .next t ∧ t.reg x = s.reg y ∧
      regsKept [x] s t ∧ t.rngIndex = s.rngIndex ∧ nextPc s t ∧ onlyRegs s t)

/-- R171, R176: ADD and ADDV wrap mod 256 and write no flag. -/
def Obligations.AdditionsWrap : Prop :=
  ∀ (x y : Reg) (kk : Byte) (s : State),
    (∃ t, exec (.add x kk) s = .next t ∧ (t.reg x).toNat = ((s.reg x).toNat + kk.toNat) % 256 ∧
      regsKept [x] s t ∧ t.rngIndex = s.rngIndex ∧ nextPc s t ∧ onlyRegs s t) ∧
    (∃ t, exec (.addv x y) s = .next t ∧ (t.reg x).toNat = ((s.reg x).toNat + (s.reg y).toNat) % 256 ∧
      regsKept [x] s t ∧ t.rngIndex = s.rngIndex ∧ nextPc s t ∧ onlyRegs s t)

/-- R173, R174, R175: OR, AND, XOR bit by bit, no flag. -/
def Obligations.LogicIsBitwise : Prop :=
  ∀ (x y : Reg) (s : State),
    (∃ t, exec (.or x y) s = .next t ∧
      (∀ k, (t.reg x).getLsbD k = ((s.reg x).getLsbD k || (s.reg y).getLsbD k)) ∧
      regsKept [x] s t ∧ t.rngIndex = s.rngIndex ∧ nextPc s t ∧ onlyRegs s t) ∧
    (∃ t, exec (.and x y) s = .next t ∧
      (∀ k, (t.reg x).getLsbD k = ((s.reg x).getLsbD k && (s.reg y).getLsbD k)) ∧
      regsKept [x] s t ∧ t.rngIndex = s.rngIndex ∧ nextPc s t ∧ onlyRegs s t) ∧
    (∃ t, exec (.xor x y) s = .next t ∧
      (∀ k, (t.reg x).getLsbD k = ((s.reg x).getLsbD k != (s.reg y).getLsbD k)) ∧
      regsKept [x] s t ∧ t.rngIndex = s.rngIndex ∧ nextPc s t ∧ onlyRegs s t)

/-- R177 (and R161): SUB, with its strict flag, overwritten by the result when x = 15. -/
def Obligations.SubSetsStrictFlag : Prop :=
  ∀ (x y : Reg) (s : State), ∃ t, exec (.sub x y) s = .next t ∧
    (t.reg x).toNat = ((s.reg x).toNat + 256 - (s.reg y).toNat) % 256 ∧
    (x ≠ 15 → t.reg 15 = if (s.reg y).toNat < (s.reg x).toNat then 1 else 0) ∧
    regsKept [x, 15] s t ∧ t.rngIndex = s.rngIndex ∧ nextPc s t ∧ onlyRegs s t

/-- R179 (and R161): SUBN, under both settings of `subn_flag`. -/
def Obligations.SubnSetsFlagByRule : Prop :=
  ∀ (x y : Reg) (s : State), ∃ t, exec (.subn x y) s = .next t ∧
    (t.reg x).toNat = ((s.reg y).toNat + 256 - (s.reg x).toNat) % 256 ∧
    (x ≠ 15 → s.params.subnFlag = .conventional →
      t.reg 15 = if (s.reg x).toNat < (s.reg y).toNat then 1 else 0) ∧
    (x ≠ 15 → s.params.subnFlag = .literal → t.reg 15 = if 1 < (s.reg y).toNat then 1 else 0) ∧
    regsKept [x, 15] s t ∧ t.rngIndex = s.rngIndex ∧ nextPc s t ∧ onlyRegs s t

/-- R178, R180 (and R161): SHR and SHL, y unused, under both settings of `shift_vf`: the flag, if written, is written
last. -/
def Obligations.ShiftsInPlace : Prop :=
  ∀ (x y : Reg) (s : State),
    (∃ t, exec (.shr x y) s = .next t ∧
      (s.params.shiftVf = .unchanged ∨ x ≠ 15 → (t.reg x).toNat = (s.reg x).toNat / 2) ∧
      (s.params.shiftVf = .unchanged → regsKept [x] s t) ∧
      (s.params.shiftVf = .shiftedOutBit →
        (t.reg 15).toNat = (s.reg x).toNat % 2 ∧ regsKept [x, 15] s t) ∧
      t.rngIndex = s.rngIndex ∧ nextPc s t ∧ onlyRegs s t) ∧
    (∃ t, exec (.shl x y) s = .next t ∧
      (s.params.shiftVf = .unchanged ∨ x ≠ 15 → (t.reg x).toNat = (s.reg x).toNat * 2 % 256) ∧
      (s.params.shiftVf = .unchanged → regsKept [x] s t) ∧
      (s.params.shiftVf = .shiftedOutBit →
        (t.reg 15).toNat = (s.reg x).toNat / 128 ∧ regsKept [x, 15] s t) ∧
      t.rngIndex = s.rngIndex ∧ nextPc s t ∧ onlyRegs s t)

/-- R181: RND, for every value of the draw (the free value Config.rngDraw of the model's draw counter, log entry 3):
one draw, masked; a register keeps no bit outside the mask. -/
def Obligations.RndMasksOneDraw : Prop :=
  ∀ (x : Reg) (kk : Byte) (s : State), ∃ t, exec (.rnd x kk) s = .next t ∧
    t.reg x = Config.rngDraw s.rngIndex &&& kk ∧ t.reg x &&& ~~~kk = 0 ∧ t.rngIndex = s.rngIndex + 1 ∧
    regsKept [x] s t ∧ nextPc s t ∧ onlyRegs s t

/-! ## The index register and memory -/

/-- R200, R201, R202: LDI, ADDI, LDF. -/
def Obligations.IndexRegisterWrites : Prop :=
  ∀ (x : Reg) (a : Addr) (s : State),
    (∃ t, exec (.ldi a) s = .next t ∧ t.i.toNat = a.toNat ∧
      coreKept s t ∧ memKept s t ∧ t.fb = s.fb ∧ timersKept s t ∧ nextPc s t) ∧
    (∃ t, exec (.addi x) s = .next t ∧ t.i.toNat = (s.i.toNat + (s.reg x).toNat) % 65536 ∧
      coreKept s t ∧ memKept s t ∧ t.fb = s.fb ∧ timersKept s t ∧ nextPc s t) ∧
    (∃ t, exec (.ldf x) s = .next t ∧ t.i.toNat = (s.reg x).toNat % 16 * 5 ∧
      coreKept s t ∧ memKept s t ∧ t.fb = s.fb ∧ timersKept s t ∧ nextPc s t)

/-- R203: LDB: three digits at i, or one of its two errors. -/
def Obligations.LdbStoresDecimalDigits : Prop :=
  ∀ (x : Reg) (s : State), s.mem.wf →
    (4096 < s.i.toNat + 3 → ∃ t, exec (.ldb x) s = .next t ∧
      raises s t (.exceedsCapacity s.i.toNat 3) (some (encode (.ldb x)))) ∧
    (s.i.toNat < 0x50 → s.params.fontWrite = .fault → ∃ t, exec (.ldb x) s = .next t ∧
      raises s t (.readOnly s.i.toNat 3) (some (encode (.ldb x)))) ∧
    (s.i.toNat + 3 ≤ 4096 → (0x50 ≤ s.i.toNat ∨ s.params.fontWrite = .allow) →
      ∃ t, exec (.ldb x) s = .next t ∧
        (t.mem.byte s.i.toNat).toNat = (s.reg x).toNat / 100 ∧
        (t.mem.byte (s.i.toNat + 1)).toNat = (s.reg x).toNat / 10 % 10 ∧
        (t.mem.byte (s.i.toNat + 2)).toNat = (s.reg x).toNat % 10 ∧
        memKeptOutside s.i.toNat 3 s t ∧ t.i = s.i ∧ coreKept s t ∧ t.fb = s.fb ∧ timersKept s t ∧ nextPc s t)

/-- R206: LDIV: all 16 registers at i, whatever x is, or one of its two errors. -/
def Obligations.LdivStoresAllRegisters : Prop :=
  ∀ (x : Reg) (s : State), s.mem.wf →
    (4096 < s.i.toNat + 16 → ∃ t, exec (.ldiv x) s = .next t ∧
      raises s t (.exceedsCapacity s.i.toNat 16) (some (encode (.ldiv x)))) ∧
    (s.i.toNat < 0x50 → s.params.fontWrite = .fault → ∃ t, exec (.ldiv x) s = .next t ∧
      raises s t (.readOnly s.i.toNat 16) (some (encode (.ldiv x)))) ∧
    (s.i.toNat + 16 ≤ 4096 → (0x50 ≤ s.i.toNat ∨ s.params.fontWrite = .allow) →
      ∃ t, exec (.ldiv x) s = .next t ∧ (∀ r : Reg, t.mem.byte (s.i.toNat + r.val) = s.reg r) ∧
        memKeptOutside s.i.toNat 16 s t ∧ t.i = s.i ∧ coreKept s t ∧ t.fb = s.fb ∧ timersKept s t ∧ nextPc s t)

/-- R207: LDVI: all 16 registers from i, whatever x is, or OutOfBounds with no register written. -/
def Obligations.LdviLoadsAllRegisters : Prop :=
  ∀ (x : Reg) (s : State),
    (4096 < s.i.toNat + 16 → ∃ t, exec (.ldvi x) s = .next t ∧
      raises s t (.outOfBounds s.i.toNat 16) (some (encode (.ldvi x)))) ∧
    (s.i.toNat + 16 ≤ 4096 →
      ∃ t, exec (.ldvi x) s = .next t ∧ (∀ r : Reg, t.reg r = s.mem.byte (s.i.toNat + r.val)) ∧
        t.rngIndex = s.rngIndex ∧ nextPc s t ∧ onlyRegs s t)

/-- R206, R207: an LDVI that finds memory and i as an LDIV left them restores every register. -/
def Obligations.LdivThenLdviRestores : Prop :=
  ∀ (x y : Reg) (s t u : State), s.mem.wf → s.fault = none → exec (.ldiv x) s = .next t → t.fault = none →
    u.mem = t.mem → u.i = t.i → ∃ v, exec (.ldvi y) u = .next v ∧ v.V = s.V

/-- R72, R73 (and the font check of R76): get_range, set_range and set_byte: their checks on unbounded sums, their two
kinds of bounds error, the font protection after the capacity check, and what they move. -/
def Obligations.MemoryRangesAreChecked : Prop :=
  ∀ (m : Memory) (fw : FontWrite) (start len : Nat) (data : List Byte), m.wf →
    (4096 < start + len → m.getRange start len = .error (.outOfBounds start len)) ∧
    (start + len ≤ 4096 → ∃ bs, m.getRange start len = .ok bs ∧ bs.length = len ∧
      ∀ k, k < len → bs.getD k 0 = m.byte (start + k)) ∧
    (4096 < start + data.length → m.setRange fw start data = .error (.exceedsCapacity start data.length)) ∧
    (start + data.length ≤ 4096 → fw = .fault → start < 0x50 → data ≠ [] →
      m.setRange fw start data = .error (.readOnly start data.length)) ∧
    (start + data.length ≤ 4096 → fw = .allow ∨ 0x50 ≤ start ∨ data = [] →
      ∃ m', m.setRange fw start data = .ok m' ∧ m'.wf ∧
        (∀ k, k < data.length → m'.byte (start + k) = data.getD k 0) ∧
        (∀ a, a < start ∨ start + data.length ≤ a → m'.byte a = m.byte a)) ∧
    ∀ v, m.setByte fw start v = m.setRange fw start [v]

/-- "A write by LDB or LDIV is seen by the next instruction fetch from the written address" (20_memory.md section 4,
which the spec marks derived): a word stored over the next instruction is the word fetched. -/
def Obligations.StoredWordsAreFetched : Prop :=
  ∀ (x : Reg) (s t : State), s.mem.wf → s.fault = none → t.fault = none →
    (exec (.ldiv x) s = .next t → ∀ k (hk : k + 1 < 16), t.pc.toNat = s.i.toNat + k →
      t.fetch = .ok (wordOfBytes s.V[k] s.V[k + 1])) ∧
    (exec (.ldb x) s = .next t →
      (t.pc = s.i → ∃ w, t.fetch = .ok w ∧ w.toNat = (s.reg x).toNat / 100 * 256 + (s.reg x).toNat / 10 % 10) ∧
      (t.pc.toNat = s.i.toNat + 1 →
        ∃ w, t.fetch = .ok w ∧ w.toNat = (s.reg x).toNat / 10 % 10 * 256 + (s.reg x).toNat % 10))

/-- R32, R39, R41, R47, R70: which instructions write VF (as a flag, or as a named destination), i, the stack, memory,
the framebuffer and the timers; none writes the display's size or the parameters. -/
def Obligations.WhichInstructionsWriteWhat : Prop :=
  ∀ (ins : Instr) (s t : State), exec ins s = .next t →
    (t.reg 15 ≠ s.reg 15 → writesFlag s.params ins ∨ hasDest ins 15) ∧
    (t.i ≠ s.i → (∃ a, ins = .ldi a) ∨ ∃ x, ins = .addi x ∨ ins = .ldf x) ∧
    (t.stack ≠ s.stack → ∃ a, ins = .call a) ∧ (t.sp ≠ s.sp → ins = .ret ∨ ∃ a, ins = .call a) ∧
    (t.mem ≠ s.mem → ∃ x, ins = .ldb x ∨ ins = .ldiv x) ∧
    (t.fb ≠ s.fb → ins = .cls ∨ ∃ x y n, ins = .drw x y n) ∧
    (t.delay ≠ s.delay → ∃ x, ins = .lddv x) ∧ (t.sound ≠ s.sound → ∃ x, ins = .lds x) ∧
    (t.rngIndex ≠ s.rngIndex → ∃ x kk, ins = .rnd x kk) ∧
    t.fb.width = s.fb.width ∧ t.fb.height = s.fb.height ∧ t.params = s.params

/-! ## The display -/

/-- R240 (and R231): CLS. -/
def Obligations.ClsClearsEveryPixel : Prop :=
  ∀ s : State, ∃ t, exec .cls s = .next t ∧ (∀ y x, t.fb.pixel y x = false) ∧
    t.fb.width = s.fb.width ∧ t.fb.height = s.fb.height ∧ coreKept s t ∧ t.i = s.i ∧ memKept s t ∧
    timersKept s t ∧ nextPc s t

/-- R241: DRW completes or raises OutOfBounds; VF is a bit; n = 0 draws nothing; the rest is unchanged. -/
def Obligations.DrwCompletesOrRaises : Prop :=
  ∀ (x y : Reg) (n : Nibble) (s : State),
    (4096 < s.i.toNat + n.toNat → ∃ t, exec (.drw x y n) s = .next t ∧
      raises s t (.outOfBounds s.i.toNat n.toNat) (some (encode (.drw x y n)))) ∧
    (s.i.toNat + n.toNat ≤ 4096 → ∃ t, exec (.drw x y n) s = .next t ∧
      (t.reg 15 = 0 ∨ t.reg 15 = 1) ∧ (n = 0 → t.fb = s.fb ∧ t.reg 15 = 0) ∧
      t.fb.width = s.fb.width ∧ t.fb.height = s.fb.height ∧ regsKept [15] s t ∧ t.rngIndex = s.rngIndex ∧
      t.i = s.i ∧ stackKept s t ∧ memKept s t ∧ timersKept s t ∧ latchKept s t ∧ nextPc s t)

/-- R230, R232, R233, R234, for every well-formed display, whether the sprite overlaps itself or not. Each pixel is
XORed with every sprite bit that lands on it, at wrapped coordinates, so with the parity of their number m. VF = 1 exactly
when some bit cleared a set pixel: the first on a pixel that was set, or the second on any pixel. A sprite no wider and no
taller than the display does not overlap itself: no two of its bits land on one pixel. -/
def Obligations.DrwXorsWrappedSprite : Prop :=
  ∀ (x y : Reg) (n : Nibble) (s : State), s.fb.wf → s.i.toNat + n.toNat ≤ 4096 →
    let m := spriteCount s (s.reg x).toNat (s.reg y).toNat n.toNat
    (∃ t, exec (.drw x y n) s = .next t ∧
      (∀ py px, py < s.fb.height → px < s.fb.width →
        t.fb.pixel py px = xor (s.fb.pixel py px) (m py px % 2 == 1)) ∧
      (t.reg 15 = 0 ∨ t.reg 15 = 1) ∧
      (t.reg 15 = 1 ↔ ∃ py px, py < s.fb.height ∧ px < s.fb.width ∧
        ((s.fb.pixel py px = true ∧ 1 ≤ m py px) ∨ 2 ≤ m py px))) ∧
    (8 ≤ s.fb.width → n.toNat ≤ s.fb.height → ∀ py px, m py px ≤ 1)

/-- R235: drawing the same sprite at the same place twice gives back the framebuffer, self-overlapping or not; a sprite
with no set bit changes nothing and reports no collision; on a clear display a sprite that does not overlap itself
(R234) reports none, and its second drawing reports one exactly when the sprite has a set bit. -/
def Obligations.DrawingTwiceRestores : Prop :=
  ∀ (fb : Framebuffer) (sx sy : Nat) (bs : List Byte), fb.wf →
    ((fb.drawBytesAt sx sy bs).1.drawBytesAt sx sy bs).1 = fb ∧
    ((∀ b ∈ bs, b = 0) → fb.drawBytesAt sx sy bs = (fb, false)) ∧
    (8 ≤ fb.width → bs.length ≤ fb.height → (∀ y x, fb.pixel y x = false) →
      (fb.drawBytesAt sx sy bs).2 = false ∧
      (((fb.drawBytesAt sx sy bs).1.drawBytesAt sx sy bs).2 = true ↔ ∃ b ∈ bs, b ≠ 0))

/-- R236: resize keeps each pixel's coordinates, clears new pixels, and is refused for a zero dimension. -/
def Obligations.ResizeKeepsPixels : Prop :=
  ∀ (s : State) (w h : Nat),
    (1 ≤ w → 1 ≤ h → ∃ t, act (.resize w h) s = (t, .ok) ∧ t.fb.width = w ∧ t.fb.height = h ∧
      (∀ py px, py < h → px < w →
        t.fb.pixel py px = if py < s.fb.height ∧ px < s.fb.width then s.fb.pixel py px else false) ∧
      t = { s with fb := t.fb }) ∧
    (w = 0 ∨ h = 0 → act (.resize w h) s = (s, .refused))

/-! ## The timed registers -/

/-- R260, R261, R262: LDD, LDDV, LDS; the phase of the new countdown is the model's (log entry 4) and is not stated. -/
def Obligations.TimerInstructionsMoveValues : Prop :=
  ∀ (x : Reg) (s : State),
    (∃ t, exec (.ldd x) s = .next t ∧ t.reg x = s.delay.value ∧
      regsKept [x] s t ∧ t.rngIndex = s.rngIndex ∧ nextPc s t ∧ onlyRegs s t) ∧
    (∃ t, exec (.lddv x) s = .next t ∧ t.delay.value = s.reg x ∧ t.sound = s.sound ∧
      coreKept s t ∧ t.i = s.i ∧ memKept s t ∧ t.fb = s.fb ∧ nextPc s t) ∧
    (∃ t, exec (.lds x) s = .next t ∧ t.sound.value = s.reg x ∧ t.delay = s.delay ∧
      coreKept s t ∧ t.i = s.i ∧ memKept s t ∧ t.fb = s.fb ∧ nextPc s t)

/-- R322: a tick takes one from a register above 0, leaves one at 0, touches nothing else, latched fault or not. -/
def Obligations.TickDecrementsOnce : Prop :=
  ∀ s : State,
    (∃ t, (act .tickDelay s).1 = { s with delay := t } ∧
      (0 < s.delay.value.toNat → t.value.toNat + 1 = s.delay.value.toNat) ∧ (s.delay.value = 0 → t = s.delay)) ∧
    (∃ t, (act .tickSound s).1 = { s with sound := t } ∧
      (0 < s.sound.value.toNat → t.value.toNat + 1 = s.sound.value.toNat) ∧ (s.sound.value = 0 → t = s.sound))

/-- R324: after `set(N)`, n ticks leave N - n: never above N, and 0 from N ticks on, whatever the gaps. -/
def Obligations.TicksCountDownToZero : Prop :=
  ∀ (gap : Nat → Nat) (t : Timer) (v : Byte) (n : Nat),
    (((t.set gap v).ticks gap n).value.toNat = v.toNat - n) ∧ ((t.set gap v).ticks gap n).value.toNat ≤ v.toNat ∧
    (v.toNat ≤ n → ((t.set gap v).ticks gap n).value = 0)

/-- R324's schedule as the model draws it (log entry 4, the model's choice of form): between two steps each register
makes some number of ticks, at least one when it counts and its phase has run out, none while its phase has not. -/
def Obligations.ElapseIsSomeTicks : Prop :=
  ∀ (gap : Nat → Nat) (t : Timer),
    (∃ n, (t.elapse gap).value = (t.ticks gap n).value ∧ (t.elapse gap).draws = (t.ticks gap n).draws) ∧
    (t.value ≠ 0 → t.phase = 0 → (t.elapse gap).value.toNat < t.value.toNat) ∧
    (∀ p, t.value ≠ 0 → t.phase = p + 1 → t.elapse gap = { t with phase := p })

/-- R324's weak fairness in the model's form (log entries 4, 17): between steps a counting register ticks after finitely
many steps, and reaches 0 if nothing sets it. -/
def Obligations.CountingTimerReachesZero : Prop :=
  ∀ (gap : Nat → Nat) (t : Timer), ∃ n, ((Timer.elapse gap)^[n] t).value = 0

/-- R325: in the timed refinement N periods after `set(N)` the value is 0, the first decrement lands one full period
after the set, and the passing of time composes. -/
def Obligations.TimedTimerDecrementsPerPeriod : Prop :=
  ∀ (period : Nat) (t : TimedTimer) (v : Byte) (a b : Nat), 0 < period →
    ((t.set v).advance period a).value.toNat = v.toNat - a / period ∧
    ((t.set v).advance period (a + b)) = ((t.set v).advance period a).advance period b

/-! ## The whole machine -/

/-- R47, R48, R351 and the canonical form of memory: the invariant holds at creation. -/
def Obligations.CreationMeetsInvariant : Prop :=
  ∀ (p : Params) (font : Vector Byte 80), (State.create p font).Inv

/-- R47, R48, R50 and the canonical form of memory: every step keeps the invariant. -/
def Obligations.StepKeepsInvariant : Prop :=
  ∀ s t : State, s.Inv → step s = .next t → t.Inv ∧ t.params = s.params

/-- R12, R47, R48: so does every action of every agent. -/
def Obligations.EveryActionKeepsInvariant : Prop :=
  ∀ (s : State) (e : Event), s.Inv → (act e s).1.Inv ∧ (act e s).1.params = s.params

/-- "In practice `pc` never exceeds 0x10FE" (10_state.md section 3, which the spec marks derived): whatever the agents
do. -/
def Obligations.PcStaysBounded : Prop :=
  (∀ (p : Params) (font : Vector Byte 80), (State.create p font).pcBounded) ∧
  (∀ s t : State, s.pcBounded → step s = .next t → t.pcBounded) ∧
  (∀ (s : State) (e : Event), s.pcBounded → (act e s).1.pcBounded)

/-- R76: under `font_write = Fault` no run of the whole machine changes a byte of the font table. -/
def Obligations.FontTableIsImmutable : Prop :=
  ∀ s t : State, s.Inv → s.params.fontWrite = .fault → Reaches s t →
    ∀ a, a < 0x50 → t.mem.byte a = s.mem.byte a

/-- R51: no instruction reads the phase of a timer: two states that differ only in what R51 hides step to states that
differ only in it. -/
def Obligations.TimerPhaseIsHidden : Prop :=
  ∀ s s' : State, s.visible = s'.visible → s.fault = none →
    ∃ t t', s.engineStep = .next t ∧ s'.engineStep = .next t' ∧ t.visible = t'.visible

/-- R12, R324 and log entry 4: a step of the model is a run of the agents: some ticks of each timer, then one engine step,
equal in all but the hidden phases. -/
def Obligations.StepIsTicksThenEngineStep : Prop :=
  ∀ s t : State, step s = .next t → ∃ n m,
    (runEvents (List.replicate n .tickDelay ++ List.replicate m .tickSound ++ [.step]) s).visible = t.visible

/-- R152: at a self-jump a step changes nothing but the timers, and the machine stays there. That ticks land within
`step`, before the engine's part of it, is the model's choice (log entry 4). -/
def Obligations.SelfJumpOnlyTicks : Prop :=
  ∀ s : State, s.fault = none → s.atSelfJump →
    ∃ t, step s = .next t ∧ t = { s with delay := t.delay, sound := t.sound } ∧ t.atSelfJump

/-- R89, R331, R357: polls and memory reads change nothing; a read past memory is an error that is not latched. -/
def Obligations.HostReadsChangeNothing : Prop :=
  ∀ (s : State) (start len : Nat),
    act .pollFramebuffer s = (s, .framebuffer s.fb) ∧ act .pollDelay s = (s, .timer s.delay.value) ∧
    act .pollSound s = (s, .timer s.sound.value) ∧
    (4096 < start + len → act (.readMemory start len) s = (s, .error (.outOfBounds start len))) ∧
    (start + len ≤ 4096 → ∃ bs, act (.readMemory start len) s = (s, .bytes bs) ∧ bs.length = len ∧
      ∀ k, k < len → bs.getD k 0 = s.mem.byte (start + k))
end

