-- ==== Sys2Proof/Laws/Decode.lean ====
section
/-! SUPPORT. The fields of a word and the words of the formats as numbers, and what each format's fields are (spec 30_encoding.md R101, R103, 20_memory.md R74). -/

namespace Sys2Proof

/-! ### Fields as numbers -/

theorem fieldN0_toNat (w : Word) : (fieldN0 w).toNat = w.toNat / 4096 := by
  have := w.isLt
  simp only [fieldN0, BitVec.extractLsb'_toNat, Nat.shiftRight_eq_div_pow]
  omega

theorem fieldX_val (w : Word) : (fieldX w).val = w.toNat / 256 % 16 := by
  simp [fieldX, Nat.shiftRight_eq_div_pow]

theorem fieldY_val (w : Word) : (fieldY w).val = w.toNat / 16 % 16 := by
  simp [fieldY, Nat.shiftRight_eq_div_pow]

theorem fieldN_toNat (w : Word) : (fieldN w).toNat = w.toNat % 16 := by simp [fieldN]

theorem fieldKK_toNat (w : Word) : (fieldKK w).toNat = w.toNat % 256 := by simp [fieldKK]

theorem fieldAddr_toNat (w : Word) : (fieldAddr w).toNat = w.toNat % 4096 := by simp [fieldAddr]

theorem highByte_toNat (w : Word) : (highByte w).toNat = w.toNat / 256 := by
  have := w.isLt
  simp only [highByte, BitVec.extractLsb'_toNat, Nat.shiftRight_eq_div_pow]
  omega

theorem lowByte_toNat (w : Word) : (lowByte w).toNat = w.toNat % 256 := by simp [lowByte]

/-! ### Words as numbers -/

theorem append_toNat {m n : Nat} (a : BitVec m) (b : BitVec n) : (a ++ b).toNat = a.toNat * 2 ^ n + b.toNat := by
  rw [BitVec.toNat_append, Nat.shiftLeft_eq, Nat.mul_comm, ← Nat.two_pow_add_eq_or_of_lt b.isLt]

@[simp] theorem regBits_toNat (r : Reg) : (regBits r).toNat = r.val := rfl

theorem wordOfBytes_toNat (b0 b1 : Byte) : (wordOfBytes b0 b1).toNat = b0.toNat * 256 + b1.toNat :=
  append_toNat b0 b1

theorem formA_toNat (f : Nibble) (a : Addr) : (formA f a).toNat = f.toNat * 4096 + a.toNat := append_toNat f a

theorem formXK_toNat (f : Nibble) (x : Reg) (kk : Byte) :
    (formXK f x kk).toNat = f.toNat * 4096 + x.val * 256 + kk.toNat := by
  have h : (formXK f x kk).toNat = (f ++ regBits x).toNat * 2 ^ 8 + kk.toNat := append_toNat _ _
  rw [h, append_toNat, regBits_toNat]
  ring

theorem formXYN_toNat (f : Nibble) (x y : Reg) (n : Nibble) :
    (formXYN f x y n).toNat = f.toNat * 4096 + x.val * 256 + y.val * 16 + n.toNat := by
  have h : (formXYN f x y n).toNat = (f ++ regBits x ++ regBits y).toNat * 2 ^ 4 + n.toNat := append_toNat _ _
  rw [h, append_toNat, append_toNat, regBits_toNat, regBits_toNat]
  ring

/-! ### The two bytes of a word -/

@[simp] theorem wordOfBytes_high_low (w : Word) : wordOfBytes (highByte w) (lowByte w) = w := by
  apply BitVec.eq_of_toNat_eq
  rw [wordOfBytes_toNat, highByte_toNat, lowByte_toNat]
  omega

@[simp] theorem highByte_wordOfBytes (b0 b1 : Byte) : highByte (wordOfBytes b0 b1) = b0 := by
  apply BitVec.eq_of_toNat_eq
  rw [highByte_toNat, wordOfBytes_toNat]
  omega

@[simp] theorem lowByte_wordOfBytes (b0 b1 : Byte) : lowByte (wordOfBytes b0 b1) = b1 := by
  apply BitVec.eq_of_toNat_eq
  rw [lowByte_toNat, wordOfBytes_toNat]
  omega

/-! ### The fields of each format -/

@[simp] theorem fieldN0_formA (f : Nibble) (a : Addr) : fieldN0 (formA f a) = f := by
  apply BitVec.eq_of_toNat_eq
  rw [fieldN0_toNat, formA_toNat]
  omega

@[simp] theorem fieldAddr_formA (f : Nibble) (a : Addr) : fieldAddr (formA f a) = a := by
  apply BitVec.eq_of_toNat_eq
  rw [fieldAddr_toNat, formA_toNat]
  omega

@[simp] theorem fieldN0_formXK (f : Nibble) (x : Reg) (kk : Byte) : fieldN0 (formXK f x kk) = f := by
  apply BitVec.eq_of_toNat_eq
  rw [fieldN0_toNat, formXK_toNat]
  omega

@[simp] theorem fieldX_formXK (f : Nibble) (x : Reg) (kk : Byte) : fieldX (formXK f x kk) = x := by
  apply Fin.ext
  rw [fieldX_val, formXK_toNat]
  omega

@[simp] theorem fieldKK_formXK (f : Nibble) (x : Reg) (kk : Byte) : fieldKK (formXK f x kk) = kk := by
  apply BitVec.eq_of_toNat_eq
  rw [fieldKK_toNat, formXK_toNat]
  omega

@[simp] theorem fieldN0_formXYN (f : Nibble) (x y : Reg) (n : Nibble) : fieldN0 (formXYN f x y n) = f := by
  apply BitVec.eq_of_toNat_eq
  rw [fieldN0_toNat, formXYN_toNat]
  omega

@[simp] theorem fieldX_formXYN (f : Nibble) (x y : Reg) (n : Nibble) : fieldX (formXYN f x y n) = x := by
  apply Fin.ext
  rw [fieldX_val, formXYN_toNat]
  omega

@[simp] theorem fieldY_formXYN (f : Nibble) (x y : Reg) (n : Nibble) : fieldY (formXYN f x y n) = y := by
  apply Fin.ext
  rw [fieldY_val, formXYN_toNat]
  omega

@[simp] theorem fieldN_formXYN (f : Nibble) (x y : Reg) (n : Nibble) : fieldN (formXYN f x y n) = n := by
  apply BitVec.eq_of_toNat_eq
  rw [fieldN_toNat, formXYN_toNat]
  omega

end Sys2Proof
end

