-- ==== Sys2Proof/Laws/Display.lean ====
section
/-! SUPPORT. The framebuffer engine: shapes are kept, and what a pixel reads after a write (spec 43_display.md R230 to R236). -/

namespace Sys2Proof.Machine

@[simp] theorem Framebuffer.setPixel_width (fb : Framebuffer) (y x : Nat) (b : Bool) :
    (fb.setPixel y x b).width = fb.width := rfl
@[simp] theorem Framebuffer.setPixel_height (fb : Framebuffer) (y x : Nat) (b : Bool) :
    (fb.setPixel y x b).height = fb.height := rfl
@[simp] theorem Framebuffer.clear_width (fb : Framebuffer) : fb.clear.width = fb.width := rfl
@[simp] theorem Framebuffer.clear_height (fb : Framebuffer) : fb.clear.height = fb.height := rfl

theorem Framebuffer.setPixel_wf {fb : Framebuffer} (h : fb.wf) (y x : Nat) (b : Bool) : (fb.setPixel y x b).wf := by
  obtain ⟨hw, hh, hl, hr⟩ := h
  refine ⟨hw, hh, by simpa [Framebuffer.setPixel] using hl, fun row hrow => ?_⟩
  obtain ⟨k, hk, rfl⟩ := List.getElem_of_mem hrow
  simp only [Framebuffer.setPixel, List.length_modify] at hk
  simp only [Framebuffer.setPixel, List.getElem_modify]
  split <;> simp [hr _ (List.getElem_mem hk)]

theorem Framebuffer.clear_wf {fb : Framebuffer} (h : fb.wf) : fb.clear.wf := by
  refine ⟨h.1, h.2.1, by simp [Framebuffer.clear], fun row hrow => ?_⟩
  simp [Framebuffer.clear] at hrow
  simp [hrow.2]

theorem Framebuffer.resize_wf {fb : Framebuffer} (h : fb.wf) (w k : Nat) : (fb.resize w k).wf := by
  unfold Framebuffer.resize
  split
  · rename_i hwk
    refine ⟨hwk.1, hwk.2, by simp, fun row hrow => ?_⟩
    obtain ⟨py, -, rfl⟩ := List.mem_map.mp hrow
    simp
  · exact h

/-- Every pixel of a cleared framebuffer is off (R231). -/
@[simp] theorem Framebuffer.pixel_clear (fb : Framebuffer) (y x : Nat) : fb.clear.pixel y x = false := by
  simp only [Framebuffer.pixel, Framebuffer.clear, List.getD_eq_getElem?_getD, List.getElem?_replicate]
  split
  · simp only [Option.getD_some, List.getElem?_replicate]
    split <;> rfl
  · rfl

/-- A pixel after a write: the written one, and every other as before. -/
theorem Framebuffer.pixel_setPixel {fb : Framebuffer} (h : fb.wf) {y x : Nat} (hy : y < fb.height)
    (hx : x < fb.width) (b : Bool) (v u : Nat) :
    (fb.setPixel y x b).pixel v u = if v = y ∧ u = x then b else fb.pixel v u := by
  obtain ⟨-, -, hl, hr⟩ := h
  by_cases hv : v < fb.rows.length
  · have hlen := hr _ (List.getElem_mem hv)
    simp only [Framebuffer.pixel, Framebuffer.setPixel, List.getD_eq_getElem?_getD, List.getElem?_modify,
      List.getElem?_eq_getElem hv, Option.map_eq_map, Option.map_some, Option.getD_some]
    by_cases hvy : y = v
    · subst hvy
      simp only [if_true, true_and, List.getElem?_set]
      by_cases hux : x = u
      · subst hux
        simp [hlen, hx]
      · simp [hux, Ne.symm hux]
    · simp [hvy, Ne.symm hvy]
  · have hne : ¬ (v = y ∧ u = x) := by omega
    simp only [if_neg hne, Framebuffer.pixel, Framebuffer.setPixel, List.getD_eq_getElem?_getD,
      List.getElem?_modify, List.getElem?_eq_none (Nat.le_of_not_lt hv), Option.map_eq_map, Option.map_none]

@[simp] theorem visitBit_width (sx sy : Nat) (st : Framebuffer × Bool) (sb : SpriteBit) :
    (visitBit sx sy st sb).1.width = st.1.width := rfl
@[simp] theorem visitBit_height (sx sy : Nat) (st : Framebuffer × Bool) (sb : SpriteBit) :
    (visitBit sx sy st sb).1.height = st.1.height := rfl

theorem foldl_visitBit_shape (sx sy : Nat) (l : List SpriteBit) (st : Framebuffer × Bool) :
    (l.foldl (visitBit sx sy) st).1.width = st.1.width ∧ (l.foldl (visitBit sx sy) st).1.height = st.1.height ∧
      (st.1.wf → (l.foldl (visitBit sx sy) st).1.wf) := by
  induction l generalizing st with
  | nil => exact ⟨rfl, rfl, id⟩
  | cons sb l ih =>
    obtain ⟨h1, h2, h3⟩ := ih (visitBit sx sy st sb)
    exact ⟨h1, h2, fun h => h3 (Framebuffer.setPixel_wf h _ _ _)⟩

/-- A blit keeps W, H and the shape of the rows. -/
theorem Framebuffer.drawBytesAt_shape (fb : Framebuffer) (sx sy : Nat) (bs : List Byte) :
    (fb.drawBytesAt sx sy bs).1.width = fb.width ∧ (fb.drawBytesAt sx sy bs).1.height = fb.height ∧
      (fb.wf → (fb.drawBytesAt sx sy bs).1.wf) :=
  foldl_visitBit_shape sx sy (spriteBits 0 bs) (fb, false)

/-- A sprite bit of a blit at (sx, sy) is set and lands on the pixel (py, px) (R230). -/
def SpriteBit.lands (fb : Framebuffer) (sx sy py px : Nat) (sb : SpriteBit) : Bool :=
  sb.bit && py == (sy + sb.row) % fb.height && px == (sx + sb.col) % fb.width

/-- One visited bit flips the pixel it lands on, if it is set, and no other. -/
theorem visitBit_pixel (sx sy : Nat) {st : Framebuffer × Bool} (h : st.1.wf) (sb : SpriteBit) (py px : Nat) :
    (visitBit sx sy st sb).1.pixel py px = xor (st.1.pixel py px) (sb.lands st.1 sx sy py px) := by
  rw [visitBit, Framebuffer.pixel_setPixel h (Nat.mod_lt _ h.2.1) (Nat.mod_lt _ h.1), SpriteBit.lands]
  split
  · rename_i hp
    simp [hp.1, hp.2]
  · rename_i hp
    have : (sb.bit && py == (sy + sb.row) % st.1.height && px == (sx + sb.col) % st.1.width) = false := by
      simpa [and_assoc] using fun _ h1 h2 => hp ⟨h1, h2⟩
    rw [this, Bool.xor_false]

/-- One visited bit collides exactly when it is set and lands on a set pixel (R233). -/
theorem visitBit_collides (sx sy : Nat) (st : Framebuffer × Bool) (sb : SpriteBit) :
    (visitBit sx sy st sb).2 = true ↔
      st.2 = true ∨ ∃ py px, sb.lands st.1 sx sy py px = true ∧ st.1.pixel py px = true := by
  simp only [visitBit, SpriteBit.lands, Bool.or_eq_true, Bool.and_eq_true, beq_iff_eq]
  refine or_congr Iff.rfl ⟨fun ⟨ho, hn⟩ => ⟨_, _, ⟨⟨?_, rfl⟩, rfl⟩, ho⟩, ?_⟩
  · simpa [ho] using hn
  · rintro ⟨_, _, ⟨⟨hb, rfl⟩, rfl⟩, ho⟩
    simp [ho, hb]

theorem visitBit_lands (sx sy : Nat) (st : Framebuffer × Bool) (sb sb' : SpriteBit) (py px : Nat) :
    sb'.lands (visitBit sx sy st sb).1 sx sy py px = sb'.lands st.1 sx sy py px := rfl

/-- Every pixel after a run of visited bits: its old value XOR the parity of the set bits that land on it. -/
theorem foldl_visitBit_pixel (sx sy : Nat) (l : List SpriteBit) {st : Framebuffer × Bool} (h : st.1.wf) (py px : Nat) :
    (l.foldl (visitBit sx sy) st).1.pixel py px =
      xor (st.1.pixel py px) (l.countP (·.lands st.1 sx sy py px) % 2 == 1) := by
  induction l generalizing st with
  | nil => simp
  | cons sb l ih =>
    rw [List.foldl_cons, ih (Framebuffer.setPixel_wf h _ _ _), visitBit_pixel sx sy h, List.countP_cons]
    simp only [visitBit_lands]
    generalize l.countP _ = m
    rcases Nat.mod_two_eq_zero_or_one m with hm | hm <;>
      cases sb.lands st.1 sx sy py px <;> cases st.1.pixel py px <;> simp [hm, Nat.add_mod]

/-- A run of visited bits collides exactly where a bit lands on a set pixel, or two land on one pixel (R233, R234). -/
theorem foldl_visitBit_collides (sx sy : Nat) (l : List SpriteBit) {st : Framebuffer × Bool} (h : st.1.wf) :
    (l.foldl (visitBit sx sy) st).2 = true ↔ st.2 = true ∨ ∃ py px,
      (st.1.pixel py px = true ∧ 1 ≤ l.countP (·.lands st.1 sx sy py px)) ∨
        2 ≤ l.countP (·.lands st.1 sx sy py px) := by
  induction l generalizing st with
  | nil => simp
  | cons sb l ih =>
    rw [List.foldl_cons, ih (Framebuffer.setPixel_wf h _ _ _), visitBit_collides, or_assoc]
    refine or_congr Iff.rfl ?_
    simp only [visitBit_lands, visitBit_pixel sx sy h, List.countP_cons, ← exists_or]
    refine exists_congr fun py => exists_congr fun px => ?_
    generalize l.countP _ = m
    cases sb.lands st.1 sx sy py px <;> cases st.1.pixel py px <;> simp
    all_goals omega

/-- All a blit does (R230, R232 to R234): XOR by parity, and when it collides. -/
theorem Framebuffer.drawBytesAt_spec {fb : Framebuffer} (h : fb.wf) (sx sy : Nat) (bs : List Byte) :
    let m := fun py px => (spriteBits 0 bs).countP (·.lands fb sx sy py px)
    (∀ py px, (fb.drawBytesAt sx sy bs).1.pixel py px = xor (fb.pixel py px) (m py px % 2 == 1)) ∧
    ((fb.drawBytesAt sx sy bs).2 = true ↔ ∃ py px, (fb.pixel py px = true ∧ 1 ≤ m py px) ∨ 2 ≤ m py px) :=
  ⟨foldl_visitBit_pixel sx sy (spriteBits 0 bs) h,
    (foldl_visitBit_collides sx sy (spriteBits 0 bs) h).trans (by simp)⟩

/-- The set bits of a sprite that land on a pixel, counted row by row, most significant bit first (R232). -/
theorem countP_spriteBits (p : SpriteBit → Bool) (row : Nat) (bs : List Byte) :
    (spriteBits row bs).countP p =
      ((List.range bs.length).map fun r => (List.range 8).countP fun k =>
        p { row := row + r, col := k, bit := (bs.getD r 0).getLsbD (7 - k) }).sum := by
  induction bs generalizing row with
  | nil => rfl
  | cons b bs ih =>
    rw [spriteBits, List.countP_append, ih, byteBits, List.countP_map, List.length_cons,
      List.range_succ_eq_map (n := bs.length),
      List.map_cons, List.map_map, List.sum_cons]
    simp only [Function.comp_def, Nat.add_zero, Nat.succ_eq_add_one, List.getD_cons_zero, List.getD_cons_succ,
      Nat.add_assoc, Nat.add_comm 1]

/-- The bytes of the sprite at `i` put on each pixel what `spriteCount` counts. -/
theorem spriteCount_eq_countP (s : State) (sx sy : Nat) {n : Nat} {bs : List Byte} (hn : bs.length = n)
    (hb : ∀ r, r < n → bs.getD r 0 = s.mem.byte (s.i.toNat + r)) (py px : Nat) :
    (spriteBits 0 bs).countP (·.lands s.fb sx sy py px) = spriteCount s sx sy n py px := by
  subst hn
  rw [countP_spriteBits, spriteCount]
  refine congrArg List.sum (List.map_congr_left fun r hr => ?_)
  rw [hb r (List.mem_range.mp hr), Nat.zero_add]
  rfl

theorem State.reset_fb_wf : State.reset.fb.wf := by decide

end Sys2Proof.Machine
end

