-- ==== Sys2Proof/Laws/Memory.lean ====
section
/-! SUPPORT. Memory: a read after a write, and every operation keeps the canonical form (spec 20_memory.md R72 to R77). -/

namespace Sys2Proof.Machine

/-! ### The list of cells -/

theorem cellsFind_none_of_lt {l : List Host.Cell} {a : Nat} (h : ∀ c ∈ l, a < c.1) : cellsFind l a = none := by
  induction l with
  | nil => rfl
  | cons c rest ih =>
    have hc := h c (by simp)
    rw [cellsFind, if_neg (by omega)]
    exact ih fun d hd => h d (by simp [hd])

/-- What `cellsPut` lists lies at the written address or was listed before. -/
theorem mem_cellsPut {l : List Host.Cell} {a : Nat} {v : Byte} {c : Host.Cell} (h : c ∈ cellsPut l a v) :
    (c = (a, v) ∧ v ≠ unlistedByte a) ∨ c ∈ l := by
  induction l with
  | nil =>
    unfold cellsPut at h
    split at h
    · simp at h
    · exact .inl ⟨by simpa using h, by assumption⟩
  | cons d rest ih =>
    unfold cellsPut at h
    split at h
    · rcases List.mem_cons.mp h with rfl | h
      · simp
      · rcases ih h with h | h <;> simp [h]
    · split at h <;> split at h <;> (simp_all; try tauto)

theorem cellsPut_pairwise {l : List Host.Cell} (a : Nat) (v : Byte)
    (h : l.Pairwise fun c d => c.1 < d.1) : (cellsPut l a v).Pairwise fun c d => c.1 < d.1 := by
  induction l with
  | nil => unfold cellsPut; split <;> simp
  | cons c rest ih =>
    obtain ⟨hc, hr⟩ := List.pairwise_cons.mp h
    unfold cellsPut
    split
    · refine List.pairwise_cons.mpr ⟨fun d hd => ?_, ih hr⟩
      rcases mem_cellsPut hd with ⟨rfl, -⟩ | hd
      · assumption
      · exact hc d hd
    · split
      · split
        · exact hr
        · refine List.pairwise_cons.mpr ⟨fun d hd => ?_, hr⟩
          have := hc d hd
          show a < d.1
          omega
      · split
        · exact h
        · refine List.pairwise_cons.mpr ⟨fun d hd => ?_, h⟩
          show a < d.1
          rcases List.mem_cons.mp hd with rfl | hd
          · omega
          · have := hc d hd
            omega

theorem cellsFind_cellsPut {l : List Host.Cell} (h : l.Pairwise fun c d => c.1 < d.1) (a b : Nat) (v : Byte) :
    (cellsFind (cellsPut l a v) b).getD (unlistedByte b) =
      if b = a then v else (cellsFind l b).getD (unlistedByte b) := by
  induction l with
  | nil =>
    unfold cellsPut
    split
    · by_cases hb : b = a <;> simp_all [cellsFind]
    · by_cases hb : b = a
      · simp [cellsFind, hb]
      · simp [cellsFind, hb, Ne.symm hb]
  | cons c rest ih =>
    obtain ⟨hc, hr⟩ := List.pairwise_cons.mp h
    unfold cellsPut
    split
    · simp only [cellsFind]
      split
      · rw [if_neg (by omega)]
      · exact ih hr
    · split
      · split
        · by_cases hb : b = a
          · subst hb
            rw [cellsFind_none_of_lt fun d hd => by have := hc d hd; omega]
            simp_all
          · simp only [cellsFind, if_neg hb]
            rw [if_neg (by omega)]
        · simp only [cellsFind, @eq_comm _ a b]
          split
          · simp
          · rw [if_neg (by omega)]
      · split
        · by_cases hb : b = a
          · subst hb
            have : cellsFind (c :: rest) b = none := cellsFind_none_of_lt fun d hd => by
              rcases List.mem_cons.mp hd with rfl | hd
              · omega
              · have := hc d hd; omega
            simp_all
          · simp only [if_neg hb]
        · rw [cellsFind]
          simp only [@eq_comm _ a b]
          split <;> simp

/-! ### One byte -/

theorem Memory.put_wf {m : Memory} (h : m.wf) (a : Nat) (v : Byte) : (m.put a v).wf := by
  unfold Memory.put
  split
  · refine ⟨cellsPut_pairwise a v h.1, fun c hc => ?_⟩
    rcases mem_cellsPut hc with ⟨rfl, hv⟩ | hc
    · exact ⟨by assumption, hv⟩
    · exact h.2 c hc
  · exact h

theorem Memory.byte_put {m : Memory} (h : m.wf) (a b : Nat) (v : Byte) :
    (m.put a v).byte b = if b = a ∧ a < Config.memSize then v else m.byte b := by
  unfold Memory.put Memory.byte
  split
  · rw [cellsFind_cellsPut h.1]; simp_all
  · simp_all

/-! ### A range -/

theorem Memory.putBytes_wf {m : Memory} (h : m.wf) (start : Nat) (bs : List Byte) : (m.putBytes start bs).wf := by
  induction bs generalizing m start with
  | nil => exact h
  | cons b bs ih => exact ih (Memory.put_wf h start b) (start + 1)

theorem Memory.byte_putBytes {m : Memory} (h : m.wf) (start : Nat) (bs : List Byte)
    (hb : start + bs.length ≤ Config.memSize) (a : Nat) :
    (m.putBytes start bs).byte a =
      if start ≤ a ∧ a < start + bs.length then bs.getD (a - start) 0 else m.byte a := by
  induction bs generalizing m start with
  | nil =>
    rw [if_neg (by simp only [List.length_nil]; omega)]
    rfl
  | cons b bs ih =>
    simp only [List.length_cons] at hb
    rw [Memory.putBytes, ih (Memory.put_wf h start b) (start + 1) (by omega), Memory.byte_put h]
    simp only [List.length_cons]
    rcases Nat.lt_trichotomy a start with ha | rfl | ha
    · rw [if_neg (by omega), if_neg (by omega), if_neg (by omega)]
    · rw [if_neg (by omega), if_pos (by omega), if_pos (by omega)]
      simp
    · obtain ⟨k, rfl⟩ : ∃ k, a = start + 1 + k := ⟨a - (start + 1), by omega⟩
      have hk : start + 1 + k - start = k + 1 := by omega
      by_cases hlt : k < bs.length
      · rw [if_pos (by omega), if_pos (by omega), hk]
        simp
      · rw [if_neg (by omega), if_neg (by omega), if_neg (by omega)]

/-- All `getRange` can answer (R72). -/
theorem Memory.getRange_ok {m : Memory} {start len : Nat} {bs : List Byte} (h : m.getRange start len = .ok bs) :
    start + len ≤ Config.memSize ∧ bs = (List.range len).map fun k => m.byte (start + k) := by
  unfold Memory.getRange at h
  split at h
  · exact ⟨by assumption, by simpa using h.symm⟩
  · simp at h

theorem Memory.getRange_error {m : Memory} {start len : Nat} {e : Error} (h : m.getRange start len = .error e) :
    Config.memSize < start + len ∧ e = .outOfBounds start len := by
  unfold Memory.getRange at h
  split at h
  · simp at h
  · exact ⟨by omega, by simpa using h.symm⟩

theorem Memory.getRange_eq (m : Memory) {start len : Nat} (h : start + len ≤ Config.memSize) :
    m.getRange start len = .ok ((List.range len).map fun k => m.byte (start + k)) := if_pos h

/-- All `setRange` can answer when it writes (R73, R76). -/
theorem Memory.setRange_ok {m m' : Memory} {fw : FontWrite} {start : Nat} {bs : List Byte}
    (h : m.setRange fw start bs = .ok m') :
    start + bs.length ≤ Config.memSize ∧ (fw = .fault → meetsFont start bs.length = false) ∧
      m' = m.putBytes start bs := by
  unfold Memory.setRange at h
  split at h
  · simp at h
  · split at h
    · simp at h
    · exact ⟨by omega, by simp_all, by simpa using h.symm⟩

/-- All `setRange` can raise, capacity before font (R73, R76, R305). -/
theorem Memory.setRange_error {m : Memory} {fw : FontWrite} {start : Nat} {bs : List Byte} {e : Error}
    (h : m.setRange fw start bs = .error e) :
    (Config.memSize < start + bs.length ∧ e = .exceedsCapacity start bs.length) ∨
      (start + bs.length ≤ Config.memSize ∧ fw = .fault ∧ start < Config.fontLen ∧ 0 < bs.length ∧
        e = .readOnly start bs.length) := by
  unfold Memory.setRange at h
  split at h
  · exact .inl ⟨by assumption, by simpa using h.symm⟩
  · split at h
    · have hm : fw = .fault ∧ meetsFont start bs.length = true := by assumption
      simp only [meetsFont, decide_eq_true_eq] at hm
      exact .inr ⟨by omega, hm.1, hm.2.1, hm.2.2, by simpa using h.symm⟩
    · simp at h

theorem Memory.setRange_wf {m m' : Memory} (hm : m.wf) {fw : FontWrite} {start : Nat} {bs : List Byte}
    (h : m.setRange fw start bs = .ok m') : m'.wf := by
  obtain ⟨-, -, rfl⟩ := Memory.setRange_ok h
  exact Memory.putBytes_wf hm start bs

theorem Memory.setByte_wf {m m' : Memory} (hm : m.wf) {fw : FontWrite} {a : Nat} {v : Byte}
    (h : m.setByte fw a v = .ok m') : m'.wf := Memory.setRange_wf hm h

/-! ### clear and reset -/

theorem Memory.clear_wf {m : Memory} (h : m.wf) : m.clear.wf :=
  ⟨h.1.filter _, fun c hc => h.2 c (List.mem_of_mem_filter hc)⟩

theorem cellsFind_filter_lt (l : List Host.Cell) (n a : Nat) :
    cellsFind (l.filter fun c => c.1 < n) a = if a < n then cellsFind l a else none := by
  induction l with
  | nil => simp [cellsFind]
  | cons c rest ih =>
    by_cases hc : c.1 < n
    · have hf : (c :: rest).filter (fun c => c.1 < n) = c :: rest.filter fun c => c.1 < n := by simp [hc]
      rw [hf, cellsFind, cellsFind, ih]
      split
      · rw [if_pos (by omega)]
      · rfl
    · have hf : (c :: rest).filter (fun c => c.1 < n) = rest.filter fun c => c.1 < n := by simp [hc]
      rw [hf, ih, cellsFind]
      split
      · rw [if_neg (by omega)]
      · rfl

/-- Addresses past the font table are unlisted as 0 (20_memory.md R71). -/
theorem unlistedByte_of_le {a : Nat} (h : Config.fontLen ≤ a) : unlistedByte a = 0 := by
  unfold unlistedByte
  rw [List.getD_eq_default]
  exact h

theorem Memory.byte_clear (m : Memory) (a : Nat) :
    m.clear.byte a = if a < Config.progBase then m.byte a else 0 := by
  simp only [Memory.byte, Memory.clear, cellsFind_filter_lt]
  split
  · rfl
  · rw [unlistedByte_of_le (by simp only [Config.fontLen, Config.progBase] at *; omega)]; rfl

theorem State.reset_mem_wf : State.reset.mem.wf := by decide

/-! ### A store (20_memory.md R75) -/

/-- All a store can do when it succeeds. -/
theorem State.store_ok {s t : State} {start : Nat} {bs : List Byte} (h : s.store start bs = .ok t) :
    start + bs.length ≤ Config.memSize ∧ (s.params.fontWrite = .fault → meetsFont start bs.length = false) ∧
      t = { s with mem := s.mem.putBytes start bs } := by
  unfold State.store at h
  cases hr : s.mem.setRange s.params.fontWrite start bs with
  | error e => simp [hr, Except.map] at h
  | ok m =>
    obtain ⟨h1, h2, rfl⟩ := Memory.setRange_ok hr
    exact ⟨h1, h2, by simpa [hr, Except.map] using h.symm⟩

/-- All a store can raise. -/
theorem State.store_error {s : State} {start : Nat} {bs : List Byte} {e : Error} (h : s.store start bs = .error e) :
    (Config.memSize < start + bs.length ∧ e = .exceedsCapacity start bs.length) ∨
      (start + bs.length ≤ Config.memSize ∧ s.params.fontWrite = .fault ∧ start < Config.fontLen ∧ 0 < bs.length ∧
        e = .readOnly start bs.length) := by
  unfold State.store at h
  cases hr : s.mem.setRange s.params.fontWrite start bs with
  | error e' =>
    obtain rfl : e' = e := by simpa [hr, Except.map] using h
    exact Memory.setRange_error hr
  | ok m => simp [hr, Except.map] at h

/-- When a store succeeds. -/
theorem State.store_eq (s : State) {start : Nat} {bs : List Byte} (h : start + bs.length ≤ Config.memSize)
    (hf : s.params.fontWrite = .fault → Config.fontLen ≤ start ∨ bs = []) :
    s.store start bs = .ok { s with mem := s.mem.putBytes start bs } := by
  unfold State.store Memory.setRange
  rw [if_neg (by omega), if_neg]
  · rfl
  · rintro ⟨hfw, hm⟩
    simp only [meetsFont, decide_eq_true_eq] at hm
    rcases hf hfw with h' | rfl
    · omega
    · simp at hm

end Sys2Proof.Machine
end

