-- ==== Sys2Proof/Laws/State.lean ====
section
/-! SUPPORT. One lemma per field per update of the state, and reads of registers after writes. -/

namespace Sys2Proof.Machine

@[simp] theorem State.setReg_V (s : State) (r : Reg) (v : Byte) : (s.setReg r v).V = s.V.set r v := rfl
@[simp] theorem State.setReg_pc (s : State) (r : Reg) (v : Byte) : (s.setReg r v).pc = s.pc := rfl
@[simp] theorem State.setReg_i (s : State) (r : Reg) (v : Byte) : (s.setReg r v).i = s.i := rfl
@[simp] theorem State.setReg_stack (s : State) (r : Reg) (v : Byte) : (s.setReg r v).stack = s.stack := rfl
@[simp] theorem State.setReg_sp (s : State) (r : Reg) (v : Byte) : (s.setReg r v).sp = s.sp := rfl
@[simp] theorem State.setReg_mem (s : State) (r : Reg) (v : Byte) : (s.setReg r v).mem = s.mem := rfl
@[simp] theorem State.setReg_fb (s : State) (r : Reg) (v : Byte) : (s.setReg r v).fb = s.fb := rfl
@[simp] theorem State.setReg_delay (s : State) (r : Reg) (v : Byte) : (s.setReg r v).delay = s.delay := rfl
@[simp] theorem State.setReg_sound (s : State) (r : Reg) (v : Byte) : (s.setReg r v).sound = s.sound := rfl
@[simp] theorem State.setReg_fault (s : State) (r : Reg) (v : Byte) : (s.setReg r v).fault = s.fault := rfl
@[simp] theorem State.setReg_params (s : State) (r : Reg) (v : Byte) : (s.setReg r v).params = s.params := rfl
@[simp] theorem State.setReg_rngIndex (s : State) (r : Reg) (v : Byte) : (s.setReg r v).rngIndex = s.rngIndex := rfl

@[simp] theorem State.setFlag_V (s : State) (b : Bool) : (s.setFlag b).V = s.V.set vf (flagByte b) := rfl
@[simp] theorem State.setFlag_pc (s : State) (b : Bool) : (s.setFlag b).pc = s.pc := rfl
@[simp] theorem State.setFlag_i (s : State) (b : Bool) : (s.setFlag b).i = s.i := rfl
@[simp] theorem State.setFlag_stack (s : State) (b : Bool) : (s.setFlag b).stack = s.stack := rfl
@[simp] theorem State.setFlag_sp (s : State) (b : Bool) : (s.setFlag b).sp = s.sp := rfl
@[simp] theorem State.setFlag_mem (s : State) (b : Bool) : (s.setFlag b).mem = s.mem := rfl
@[simp] theorem State.setFlag_fb (s : State) (b : Bool) : (s.setFlag b).fb = s.fb := rfl
@[simp] theorem State.setFlag_delay (s : State) (b : Bool) : (s.setFlag b).delay = s.delay := rfl
@[simp] theorem State.setFlag_sound (s : State) (b : Bool) : (s.setFlag b).sound = s.sound := rfl
@[simp] theorem State.setFlag_fault (s : State) (b : Bool) : (s.setFlag b).fault = s.fault := rfl
@[simp] theorem State.setFlag_params (s : State) (b : Bool) : (s.setFlag b).params = s.params := rfl
@[simp] theorem State.setFlag_rngIndex (s : State) (b : Bool) : (s.setFlag b).rngIndex = s.rngIndex := rfl

@[simp] theorem State.setBytes_V (s : State) (b : List Byte) : (s.setBytes b).V = Vector.ofFn fun k => b.getD k.val 0 := rfl
@[simp] theorem State.setBytes_pc (s : State) (b : List Byte) : (s.setBytes b).pc = s.pc := rfl
@[simp] theorem State.setBytes_i (s : State) (b : List Byte) : (s.setBytes b).i = s.i := rfl
@[simp] theorem State.setBytes_stack (s : State) (b : List Byte) : (s.setBytes b).stack = s.stack := rfl
@[simp] theorem State.setBytes_sp (s : State) (b : List Byte) : (s.setBytes b).sp = s.sp := rfl
@[simp] theorem State.setBytes_mem (s : State) (b : List Byte) : (s.setBytes b).mem = s.mem := rfl
@[simp] theorem State.setBytes_fb (s : State) (b : List Byte) : (s.setBytes b).fb = s.fb := rfl
@[simp] theorem State.setBytes_delay (s : State) (b : List Byte) : (s.setBytes b).delay = s.delay := rfl
@[simp] theorem State.setBytes_sound (s : State) (b : List Byte) : (s.setBytes b).sound = s.sound := rfl
@[simp] theorem State.setBytes_fault (s : State) (b : List Byte) : (s.setBytes b).fault = s.fault := rfl
@[simp] theorem State.setBytes_params (s : State) (b : List Byte) : (s.setBytes b).params = s.params := rfl
@[simp] theorem State.setBytes_rngIndex (s : State) (b : List Byte) : (s.setBytes b).rngIndex = s.rngIndex := rfl

@[simp] theorem State.advance_V (s : State) : (s.advance).V = s.V := rfl
@[simp] theorem State.advance_pc (s : State) : (s.advance).pc = s.pc + 2 := rfl
@[simp] theorem State.advance_i (s : State) : (s.advance).i = s.i := rfl
@[simp] theorem State.advance_stack (s : State) : (s.advance).stack = s.stack := rfl
@[simp] theorem State.advance_sp (s : State) : (s.advance).sp = s.sp := rfl
@[simp] theorem State.advance_mem (s : State) : (s.advance).mem = s.mem := rfl
@[simp] theorem State.advance_fb (s : State) : (s.advance).fb = s.fb := rfl
@[simp] theorem State.advance_delay (s : State) : (s.advance).delay = s.delay := rfl
@[simp] theorem State.advance_sound (s : State) : (s.advance).sound = s.sound := rfl
@[simp] theorem State.advance_fault (s : State) : (s.advance).fault = s.fault := rfl
@[simp] theorem State.advance_params (s : State) : (s.advance).params = s.params := rfl
@[simp] theorem State.advance_rngIndex (s : State) : (s.advance).rngIndex = s.rngIndex := rfl

@[simp] theorem State.jump_V (s : State) (t : Word) : (s.jump t).V = s.V := rfl
@[simp] theorem State.jump_pc (s : State) (t : Word) : (s.jump t).pc = t := rfl
@[simp] theorem State.jump_i (s : State) (t : Word) : (s.jump t).i = s.i := rfl
@[simp] theorem State.jump_stack (s : State) (t : Word) : (s.jump t).stack = s.stack := rfl
@[simp] theorem State.jump_sp (s : State) (t : Word) : (s.jump t).sp = s.sp := rfl
@[simp] theorem State.jump_mem (s : State) (t : Word) : (s.jump t).mem = s.mem := rfl
@[simp] theorem State.jump_fb (s : State) (t : Word) : (s.jump t).fb = s.fb := rfl
@[simp] theorem State.jump_delay (s : State) (t : Word) : (s.jump t).delay = s.delay := rfl
@[simp] theorem State.jump_sound (s : State) (t : Word) : (s.jump t).sound = s.sound := rfl
@[simp] theorem State.jump_fault (s : State) (t : Word) : (s.jump t).fault = s.fault := rfl
@[simp] theorem State.jump_params (s : State) (t : Word) : (s.jump t).params = s.params := rfl
@[simp] theorem State.jump_rngIndex (s : State) (t : Word) : (s.jump t).rngIndex = s.rngIndex := rfl

@[simp] theorem State.setI_V (s : State) (w : Word) : (s.setI w).V = s.V := rfl
@[simp] theorem State.setI_pc (s : State) (w : Word) : (s.setI w).pc = s.pc := rfl
@[simp] theorem State.setI_i (s : State) (w : Word) : (s.setI w).i = w := rfl
@[simp] theorem State.setI_stack (s : State) (w : Word) : (s.setI w).stack = s.stack := rfl
@[simp] theorem State.setI_sp (s : State) (w : Word) : (s.setI w).sp = s.sp := rfl
@[simp] theorem State.setI_mem (s : State) (w : Word) : (s.setI w).mem = s.mem := rfl
@[simp] theorem State.setI_fb (s : State) (w : Word) : (s.setI w).fb = s.fb := rfl
@[simp] theorem State.setI_delay (s : State) (w : Word) : (s.setI w).delay = s.delay := rfl
@[simp] theorem State.setI_sound (s : State) (w : Word) : (s.setI w).sound = s.sound := rfl
@[simp] theorem State.setI_fault (s : State) (w : Word) : (s.setI w).fault = s.fault := rfl
@[simp] theorem State.setI_params (s : State) (w : Word) : (s.setI w).params = s.params := rfl
@[simp] theorem State.setI_rngIndex (s : State) (w : Word) : (s.setI w).rngIndex = s.rngIndex := rfl

@[simp] theorem State.takeFault_V (s : State) (e : Error) (w : Option Word) : (s.takeFault e w).V = s.V := rfl
@[simp] theorem State.takeFault_pc (s : State) (e : Error) (w : Option Word) : (s.takeFault e w).pc = s.pc := rfl
@[simp] theorem State.takeFault_i (s : State) (e : Error) (w : Option Word) : (s.takeFault e w).i = s.i := rfl
@[simp] theorem State.takeFault_stack (s : State) (e : Error) (w : Option Word) : (s.takeFault e w).stack = s.stack := rfl
@[simp] theorem State.takeFault_sp (s : State) (e : Error) (w : Option Word) : (s.takeFault e w).sp = s.sp := rfl
@[simp] theorem State.takeFault_mem (s : State) (e : Error) (w : Option Word) : (s.takeFault e w).mem = s.mem := rfl
@[simp] theorem State.takeFault_fb (s : State) (e : Error) (w : Option Word) : (s.takeFault e w).fb = s.fb := rfl
@[simp] theorem State.takeFault_delay (s : State) (e : Error) (w : Option Word) : (s.takeFault e w).delay = s.delay := rfl
@[simp] theorem State.takeFault_sound (s : State) (e : Error) (w : Option Word) : (s.takeFault e w).sound = s.sound := rfl
@[simp] theorem State.takeFault_fault (s : State) (e : Error) (w : Option Word) : (s.takeFault e w).fault = some { error := e, addr := s.pc, word := w } := rfl
@[simp] theorem State.takeFault_params (s : State) (e : Error) (w : Option Word) : (s.takeFault e w).params = s.params := rfl
@[simp] theorem State.takeFault_rngIndex (s : State) (e : Error) (w : Option Word) : (s.takeFault e w).rngIndex = s.rngIndex := rfl

@[simp] theorem State.clearFault_V (s : State) : (s.clearFault).V = s.V := rfl
@[simp] theorem State.clearFault_pc (s : State) : (s.clearFault).pc = s.pc := rfl
@[simp] theorem State.clearFault_i (s : State) : (s.clearFault).i = s.i := rfl
@[simp] theorem State.clearFault_stack (s : State) : (s.clearFault).stack = s.stack := rfl
@[simp] theorem State.clearFault_sp (s : State) : (s.clearFault).sp = s.sp := rfl
@[simp] theorem State.clearFault_mem (s : State) : (s.clearFault).mem = s.mem := rfl
@[simp] theorem State.clearFault_fb (s : State) : (s.clearFault).fb = s.fb := rfl
@[simp] theorem State.clearFault_delay (s : State) : (s.clearFault).delay = s.delay := rfl
@[simp] theorem State.clearFault_sound (s : State) : (s.clearFault).sound = s.sound := rfl
@[simp] theorem State.clearFault_fault (s : State) : (s.clearFault).fault = none := rfl
@[simp] theorem State.clearFault_params (s : State) : (s.clearFault).params = s.params := rfl
@[simp] theorem State.clearFault_rngIndex (s : State) : (s.clearFault).rngIndex = s.rngIndex := rfl

@[simp] theorem State.elapse_V (s : State) : (s.elapse).V = s.V := rfl
@[simp] theorem State.elapse_pc (s : State) : (s.elapse).pc = s.pc := rfl
@[simp] theorem State.elapse_i (s : State) : (s.elapse).i = s.i := rfl
@[simp] theorem State.elapse_stack (s : State) : (s.elapse).stack = s.stack := rfl
@[simp] theorem State.elapse_sp (s : State) : (s.elapse).sp = s.sp := rfl
@[simp] theorem State.elapse_mem (s : State) : (s.elapse).mem = s.mem := rfl
@[simp] theorem State.elapse_fb (s : State) : (s.elapse).fb = s.fb := rfl
@[simp] theorem State.elapse_delay (s : State) : (s.elapse).delay = s.delay.elapse Config.delayGap := rfl
@[simp] theorem State.elapse_sound (s : State) : (s.elapse).sound = s.sound.elapse Config.soundGap := rfl
@[simp] theorem State.elapse_fault (s : State) : (s.elapse).fault = s.fault := rfl
@[simp] theorem State.elapse_params (s : State) : (s.elapse).params = s.params := rfl
@[simp] theorem State.elapse_rngIndex (s : State) : (s.elapse).rngIndex = s.rngIndex := rfl

@[simp] theorem State.tickDelay_V (s : State) : (s.tickDelay).V = s.V := rfl
@[simp] theorem State.tickDelay_pc (s : State) : (s.tickDelay).pc = s.pc := rfl
@[simp] theorem State.tickDelay_i (s : State) : (s.tickDelay).i = s.i := rfl
@[simp] theorem State.tickDelay_stack (s : State) : (s.tickDelay).stack = s.stack := rfl
@[simp] theorem State.tickDelay_sp (s : State) : (s.tickDelay).sp = s.sp := rfl
@[simp] theorem State.tickDelay_mem (s : State) : (s.tickDelay).mem = s.mem := rfl
@[simp] theorem State.tickDelay_fb (s : State) : (s.tickDelay).fb = s.fb := rfl
@[simp] theorem State.tickDelay_delay (s : State) : (s.tickDelay).delay = s.delay.tick Config.delayGap := rfl
@[simp] theorem State.tickDelay_sound (s : State) : (s.tickDelay).sound = s.sound := rfl
@[simp] theorem State.tickDelay_fault (s : State) : (s.tickDelay).fault = s.fault := rfl
@[simp] theorem State.tickDelay_params (s : State) : (s.tickDelay).params = s.params := rfl
@[simp] theorem State.tickDelay_rngIndex (s : State) : (s.tickDelay).rngIndex = s.rngIndex := rfl

@[simp] theorem State.tickSound_V (s : State) : (s.tickSound).V = s.V := rfl
@[simp] theorem State.tickSound_pc (s : State) : (s.tickSound).pc = s.pc := rfl
@[simp] theorem State.tickSound_i (s : State) : (s.tickSound).i = s.i := rfl
@[simp] theorem State.tickSound_stack (s : State) : (s.tickSound).stack = s.stack := rfl
@[simp] theorem State.tickSound_sp (s : State) : (s.tickSound).sp = s.sp := rfl
@[simp] theorem State.tickSound_mem (s : State) : (s.tickSound).mem = s.mem := rfl
@[simp] theorem State.tickSound_fb (s : State) : (s.tickSound).fb = s.fb := rfl
@[simp] theorem State.tickSound_delay (s : State) : (s.tickSound).delay = s.delay := rfl
@[simp] theorem State.tickSound_sound (s : State) : (s.tickSound).sound = s.sound.tick Config.soundGap := rfl
@[simp] theorem State.tickSound_fault (s : State) : (s.tickSound).fault = s.fault := rfl
@[simp] theorem State.tickSound_params (s : State) : (s.tickSound).params = s.params := rfl
@[simp] theorem State.tickSound_rngIndex (s : State) : (s.tickSound).rngIndex = s.rngIndex := rfl

@[simp] theorem State.setDelay_V (s : State) (v : Byte) : (s.setDelay v).V = s.V := rfl
@[simp] theorem State.setDelay_pc (s : State) (v : Byte) : (s.setDelay v).pc = s.pc := rfl
@[simp] theorem State.setDelay_i (s : State) (v : Byte) : (s.setDelay v).i = s.i := rfl
@[simp] theorem State.setDelay_stack (s : State) (v : Byte) : (s.setDelay v).stack = s.stack := rfl
@[simp] theorem State.setDelay_sp (s : State) (v : Byte) : (s.setDelay v).sp = s.sp := rfl
@[simp] theorem State.setDelay_mem (s : State) (v : Byte) : (s.setDelay v).mem = s.mem := rfl
@[simp] theorem State.setDelay_fb (s : State) (v : Byte) : (s.setDelay v).fb = s.fb := rfl
@[simp] theorem State.setDelay_delay (s : State) (v : Byte) : (s.setDelay v).delay = s.delay.set Config.delayGap v := rfl
@[simp] theorem State.setDelay_sound (s : State) (v : Byte) : (s.setDelay v).sound = s.sound := rfl
@[simp] theorem State.setDelay_fault (s : State) (v : Byte) : (s.setDelay v).fault = s.fault := rfl
@[simp] theorem State.setDelay_params (s : State) (v : Byte) : (s.setDelay v).params = s.params := rfl
@[simp] theorem State.setDelay_rngIndex (s : State) (v : Byte) : (s.setDelay v).rngIndex = s.rngIndex := rfl

@[simp] theorem State.setSound_V (s : State) (v : Byte) : (s.setSound v).V = s.V := rfl
@[simp] theorem State.setSound_pc (s : State) (v : Byte) : (s.setSound v).pc = s.pc := rfl
@[simp] theorem State.setSound_i (s : State) (v : Byte) : (s.setSound v).i = s.i := rfl
@[simp] theorem State.setSound_stack (s : State) (v : Byte) : (s.setSound v).stack = s.stack := rfl
@[simp] theorem State.setSound_sp (s : State) (v : Byte) : (s.setSound v).sp = s.sp := rfl
@[simp] theorem State.setSound_mem (s : State) (v : Byte) : (s.setSound v).mem = s.mem := rfl
@[simp] theorem State.setSound_fb (s : State) (v : Byte) : (s.setSound v).fb = s.fb := rfl
@[simp] theorem State.setSound_delay (s : State) (v : Byte) : (s.setSound v).delay = s.delay := rfl
@[simp] theorem State.setSound_sound (s : State) (v : Byte) : (s.setSound v).sound = s.sound.set Config.soundGap v := rfl
@[simp] theorem State.setSound_fault (s : State) (v : Byte) : (s.setSound v).fault = s.fault := rfl
@[simp] theorem State.setSound_params (s : State) (v : Byte) : (s.setSound v).params = s.params := rfl
@[simp] theorem State.setSound_rngIndex (s : State) (v : Byte) : (s.setSound v).rngIndex = s.rngIndex := rfl

@[simp] theorem State.drawSprite_pc (s : State) (sx sy : Byte) (bs : List Byte) : (s.drawSprite sx sy bs).pc = s.pc := rfl
@[simp] theorem State.drawSprite_i (s : State) (sx sy : Byte) (bs : List Byte) : (s.drawSprite sx sy bs).i = s.i := rfl
@[simp] theorem State.drawSprite_stack (s : State) (sx sy : Byte) (bs : List Byte) : (s.drawSprite sx sy bs).stack = s.stack := rfl
@[simp] theorem State.drawSprite_sp (s : State) (sx sy : Byte) (bs : List Byte) : (s.drawSprite sx sy bs).sp = s.sp := rfl
@[simp] theorem State.drawSprite_mem (s : State) (sx sy : Byte) (bs : List Byte) : (s.drawSprite sx sy bs).mem = s.mem := rfl
@[simp] theorem State.drawSprite_delay (s : State) (sx sy : Byte) (bs : List Byte) : (s.drawSprite sx sy bs).delay = s.delay := rfl
@[simp] theorem State.drawSprite_sound (s : State) (sx sy : Byte) (bs : List Byte) : (s.drawSprite sx sy bs).sound = s.sound := rfl
@[simp] theorem State.drawSprite_fault (s : State) (sx sy : Byte) (bs : List Byte) : (s.drawSprite sx sy bs).fault = s.fault := rfl
@[simp] theorem State.drawSprite_params (s : State) (sx sy : Byte) (bs : List Byte) : (s.drawSprite sx sy bs).params = s.params := rfl
@[simp] theorem State.drawSprite_rngIndex (s : State) (sx sy : Byte) (bs : List Byte) : (s.drawSprite sx sy bs).rngIndex = s.rngIndex := rfl
@[simp] theorem State.drawSprite_fb (s : State) (sx sy : Byte) (bs : List Byte) : (s.drawSprite sx sy bs).fb = (s.fb.drawBytesAt sx.toNat sy.toNat bs).1 := rfl

@[simp] theorem State.skipIf_V (s : State) (c : Bool) : (s.skipIf c).V = s.V := by cases c <;> rfl
@[simp] theorem State.skipIf_i (s : State) (c : Bool) : (s.skipIf c).i = s.i := by cases c <;> rfl
@[simp] theorem State.skipIf_stack (s : State) (c : Bool) : (s.skipIf c).stack = s.stack := by cases c <;> rfl
@[simp] theorem State.skipIf_sp (s : State) (c : Bool) : (s.skipIf c).sp = s.sp := by cases c <;> rfl
@[simp] theorem State.skipIf_mem (s : State) (c : Bool) : (s.skipIf c).mem = s.mem := by cases c <;> rfl
@[simp] theorem State.skipIf_fb (s : State) (c : Bool) : (s.skipIf c).fb = s.fb := by cases c <;> rfl
@[simp] theorem State.skipIf_delay (s : State) (c : Bool) : (s.skipIf c).delay = s.delay := by cases c <;> rfl
@[simp] theorem State.skipIf_sound (s : State) (c : Bool) : (s.skipIf c).sound = s.sound := by cases c <;> rfl
@[simp] theorem State.skipIf_fault (s : State) (c : Bool) : (s.skipIf c).fault = s.fault := by cases c <;> rfl
@[simp] theorem State.skipIf_params (s : State) (c : Bool) : (s.skipIf c).params = s.params := by cases c <;> rfl
@[simp] theorem State.skipIf_rngIndex (s : State) (c : Bool) : (s.skipIf c).rngIndex = s.rngIndex := by cases c <;> rfl
@[simp] theorem State.skipIf_pc (s : State) (c : Bool) : (s.skipIf c).pc = if c then s.pc + 2 else s.pc := by cases c <;> rfl

@[simp] theorem State.setShiftFlag_pc (s : State) (b : Bool) : (s.setShiftFlag b).pc = s.pc := by
  unfold State.setShiftFlag; split <;> rfl
@[simp] theorem State.setShiftFlag_i (s : State) (b : Bool) : (s.setShiftFlag b).i = s.i := by
  unfold State.setShiftFlag; split <;> rfl
@[simp] theorem State.setShiftFlag_stack (s : State) (b : Bool) : (s.setShiftFlag b).stack = s.stack := by
  unfold State.setShiftFlag; split <;> rfl
@[simp] theorem State.setShiftFlag_sp (s : State) (b : Bool) : (s.setShiftFlag b).sp = s.sp := by
  unfold State.setShiftFlag; split <;> rfl
@[simp] theorem State.setShiftFlag_mem (s : State) (b : Bool) : (s.setShiftFlag b).mem = s.mem := by
  unfold State.setShiftFlag; split <;> rfl
@[simp] theorem State.setShiftFlag_fb (s : State) (b : Bool) : (s.setShiftFlag b).fb = s.fb := by
  unfold State.setShiftFlag; split <;> rfl
@[simp] theorem State.setShiftFlag_delay (s : State) (b : Bool) : (s.setShiftFlag b).delay = s.delay := by
  unfold State.setShiftFlag; split <;> rfl
@[simp] theorem State.setShiftFlag_sound (s : State) (b : Bool) : (s.setShiftFlag b).sound = s.sound := by
  unfold State.setShiftFlag; split <;> rfl
@[simp] theorem State.setShiftFlag_fault (s : State) (b : Bool) : (s.setShiftFlag b).fault = s.fault := by
  unfold State.setShiftFlag; split <;> rfl
@[simp] theorem State.setShiftFlag_params (s : State) (b : Bool) : (s.setShiftFlag b).params = s.params := by
  unfold State.setShiftFlag; split <;> rfl
@[simp] theorem State.setShiftFlag_rngIndex (s : State) (b : Bool) : (s.setShiftFlag b).rngIndex = s.rngIndex := by
  unfold State.setShiftFlag; split <;> rfl

/-! Reading a register after each update. -/

@[simp] theorem State.reg_setReg (s : State) (r q : Reg) (v : Byte) :
    (s.setReg r v).reg q = if r = q then v else s.reg q := by
  simp [State.reg, State.setReg, Vector.getElem_set, Fin.ext_iff]

@[simp] theorem State.reg_setFlag (s : State) (b : Bool) (q : Reg) :
    (s.setFlag b).reg q = if vf = q then flagByte b else s.reg q := State.reg_setReg s vf q _

@[simp] theorem State.reg_setBytes (s : State) (b : List Byte) (q : Reg) :
    (s.setBytes b).reg q = b.getD q.val 0 := by
  simp [State.reg, State.setBytes]

theorem State.reg_congr {s t : State} (h : t.V = s.V) (q : Reg) : t.reg q = s.reg q := by simp [State.reg, h]

@[simp] theorem State.reg_advance (s : State) (q : Reg) : s.advance.reg q = s.reg q := rfl
@[simp] theorem State.reg_jump (s : State) (t : Word) (q : Reg) : (s.jump t).reg q = s.reg q := rfl
@[simp] theorem State.reg_setI (s : State) (w : Word) (q : Reg) : (s.setI w).reg q = s.reg q := rfl
@[simp] theorem State.reg_setDelay (s : State) (v : Byte) (q : Reg) : (s.setDelay v).reg q = s.reg q := rfl
@[simp] theorem State.reg_setSound (s : State) (v : Byte) (q : Reg) : (s.setSound v).reg q = s.reg q := rfl
@[simp] theorem State.reg_elapse (s : State) (q : Reg) : s.elapse.reg q = s.reg q := rfl
@[simp] theorem State.reg_takeFault (s : State) (e : Error) (w : Option Word) (q : Reg) :
    (s.takeFault e w).reg q = s.reg q := rfl
@[simp] theorem State.reg_skipIf (s : State) (c : Bool) (q : Reg) : (s.skipIf c).reg q = s.reg q := by
  cases c <;> rfl

@[simp] theorem State.reg_setShiftFlag (s : State) (b : Bool) (q : Reg) :
    (s.setShiftFlag b).reg q =
      if s.params.shiftVf = .shiftedOutBit ∧ vf = q then flagByte b else s.reg q := by
  unfold State.setShiftFlag
  split <;> simp_all

@[simp] theorem State.reg_drawSprite (s : State) (sx sy : Byte) (bs : List Byte) (q : Reg) :
    (s.drawSprite sx sy bs).reg q =
      if vf = q then flagByte (s.fb.drawBytesAt sx.toNat sy.toNat bs).2 else s.reg q :=
  State.reg_setFlag _ _ q

@[simp] theorem State.length_asBytes (s : State) : s.asBytes.length = 16 := by simp [State.asBytes]

@[simp] theorem State.asBytes_getD (s : State) (r : Reg) : s.asBytes.getD r.val 0 = s.reg r := by
  simp [State.asBytes, State.reg, List.getD_eq_getElem?_getD]

end Sys2Proof.Machine
end

