-- ==== Sys2Proof/Laws/Ops.lean ====
section
/-! SUPPORT. What each shared operation can answer: finish, push, pop, fetch, the engine's step (spec 40_control_flow.md R140, 10_state.md R42, 60_exceptions.md R302). -/

namespace Sys2Proof.Machine

/-- An instruction that may raise answers its result, or the state it began in with the fault taken (R302). -/
theorem finish_next {s t : State} {ins : Instr} {r : Except Error State} (h : finish s ins r = .next t) :
    r = .ok t ∨ ∃ e, r = .error e ∧ t = s.takeFault e (some (encode ins)) := by
  cases r with
  | ok u => exact .inl (by simpa [finish] using h)
  | error e => exact .inr ⟨e, rfl, by simpa [finish] using h.symm⟩

/-- An instruction never stops the machine (R302). -/
theorem finish_answers (s : State) (ins : Instr) (r : Except Error State) : ∃ t, finish s ins r = .next t := by
  cases r <;> exact ⟨_, rfl⟩

/-- All a push can do (R42). -/
theorem State.push_ok {s t : State} {v : Word} (h : s.push v = .ok t) :
    s.sp.val < 16 ∧ t.sp.val = s.sp.val + 1 ∧
      (∀ k (hk : k < 16), t.stack[k] = if k = s.sp.val then v else s.stack[k]) ∧
      t = { s with stack := t.stack, sp := t.sp } := by
  unfold State.push at h
  split at h
  · rename_i hsp
    obtain rfl := Except.ok.inj h
    refine ⟨hsp, rfl, fun k hk => ?_, rfl⟩
    simp [Vector.getElem_set, eq_comm]
  · simp at h

theorem State.push_error {s : State} {v : Word} {e : Error} (h : s.push v = .error e) :
    s.sp.val = 16 ∧ e = .stackOverflow 16 := by
  unfold State.push at h
  split at h
  · simp at h
  · have : s.sp.val = 16 := by omega
    exact ⟨this, by simpa [this] using h.symm⟩

/-- All a pop can do (R42, R43). -/
theorem State.popToPc_ok {s t : State} (h : s.popToPc = .ok t) :
    ∃ hs : 0 < s.sp.val, t.sp.val = s.sp.val - 1 ∧ t.pc = s.stack[s.sp.val - 1]'(by omega) ∧
      t = { s with sp := t.sp, pc := t.pc } := by
  unfold State.popToPc at h
  split at h
  · rename_i hs
    obtain rfl := Except.ok.inj h
    exact ⟨hs, rfl, rfl, rfl⟩
  · simp at h

theorem State.popToPc_error {s : State} {e : Error} (h : s.popToPc = .error e) :
    s.sp.val = 0 ∧ e = .stackUnderflow 0 := by
  unfold State.popToPc at h
  split at h
  · simp at h
  · have : s.sp.val = 0 := by omega
    exact ⟨this, by simpa [this] using h.symm⟩

/-- A fetched word is the two bytes at `pc` (R140, 20_memory.md R74). -/
theorem State.fetch_ok {s : State} {w : Word} (h : s.fetch = .ok w) :
    s.pc.toNat + 2 ≤ Config.memSize ∧
      w = wordOfBytes (s.mem.byte s.pc.toNat) (s.mem.byte (s.pc.toNat + 1)) := by
  unfold State.fetch at h
  cases hr : s.mem.getRange s.pc.toNat 2 with
  | error e => simp [hr, Except.map] at h
  | ok bs =>
    obtain ⟨hb, rfl⟩ := Memory.getRange_ok hr
    refine ⟨hb, ?_⟩
    simp [hr, Except.map, List.range_succ] at h
    exact h.symm

theorem State.fetch_error {s : State} {e : Error} (h : s.fetch = .error e) :
    Config.memSize < s.pc.toNat + 2 ∧ e = .outOfBounds s.pc.toNat 2 := by
  unfold State.fetch at h
  cases hr : s.mem.getRange s.pc.toNat 2 with
  | ok bs => simp [hr, Except.map] at h
  | error e' =>
    obtain rfl : e' = e := by simpa [hr, Except.map] using h
    exact Memory.getRange_error hr

theorem State.fetch_eq (s : State) (h : s.pc.toNat + 2 ≤ Config.memSize) :
    s.fetch = .ok (wordOfBytes (s.mem.byte s.pc.toNat) (s.mem.byte (s.pc.toNat + 1))) := by
  cases hf : s.fetch with
  | ok w => rw [(State.fetch_ok hf).2]
  | error e => have := (State.fetch_error hf).1; omega

/-- All a step of the engine can do (R140, 60_exceptions.md R305): it fetches and runs the decoded instruction, or the
fetch or the decoding raises. -/
theorem State.engineStep_cases (s : State) :
    (∃ w ins, s.fetch = .ok w ∧ decode s.params.sysMode w = .ok ins ∧ s.engineStep = exec ins s) ∨
    (∃ w e, s.fetch = .ok w ∧ decode s.params.sysMode w = .error e ∧
      s.engineStep = .next (s.takeFault (decodeRaise e) (some w))) ∨
    (∃ e, s.fetch = .error e ∧ s.engineStep = .next (s.takeFault e none)) := by
  unfold State.engineStep
  cases s.fetch with
  | error e => exact .inr (.inr ⟨e, rfl, rfl⟩)
  | ok w =>
    unfold State.runWord
    cases hd : decode s.params.sysMode w with
    | ok ins => exact .inl ⟨w, ins, rfl, hd, by simp [hd]⟩
    | error e => exact .inr (.inl ⟨w, e, rfl, hd, by simp [hd]⟩)

/-- A step is the engine's step after the timers' ticks, or the stop of a latched machine (R303, R324). -/
theorem step_of_clean {s : State} (h : s.fault = none) : step s = s.elapse.engineStep := by simp [step, h]

theorem step_of_latched {s : State} {r : FaultRecord} (h : s.fault = some r) : step s = .fault (.latched r) := by
  simp [step, h]

/-- A placed word is what the engine fetches. -/
theorem State.fetch_placeWord {s : State} (hm : s.mem.wf) (hp : s.pc.toNat + 2 ≤ Config.memSize) (w : Word) :
    (s.placeWord w).fetch = .ok w := by
  have hb : s.pc.toNat + [highByte w, lowByte w].length ≤ Config.memSize := hp
  have h0 : (s.placeWord w).mem.byte s.pc.toNat = highByte w := by
    rw [State.placeWord, Memory.byte_putBytes hm _ _ hb, if_pos (by simp)]
    simp
  have h1 : (s.placeWord w).mem.byte (s.pc.toNat + 1) = lowByte w := by
    rw [State.placeWord, Memory.byte_putBytes hm _ _ hb, if_pos (by simp)]
    simp
  have hpc : (s.placeWord w).pc = s.pc := rfl
  rw [State.fetch_eq (s.placeWord w) hp, hpc, h0, h1, wordOfBytes_high_low]

end Sys2Proof.Machine
end

