-- ==== Sys2Proof/Laws/PerInstr.lean ====
section
/-! SUPPORT. Per instruction: its word lies in its own row of the opcode table (spec 30_encoding.md R103, R106). -/

namespace Sys2Proof

/-! ### The masks of the table on each format -/

theorem and_F (f : Nibble) : f &&& 0xF#4 = f := by revert f; decide

theorem formA_and_F000 (f : Nibble) (a : Addr) : formA f a &&& 0xF000 = formA f 0 := by
  have h : (f ++ a) &&& (0xF#4 ++ 0x000#12) = (f &&& 0xF#4) ++ (a &&& 0x000#12) := BitVec.and_append
  rw [and_F] at h
  simpa [formA] using h

theorem formXK_and_F000 (f : Nibble) (x : Reg) (kk : Byte) : formXK f x kk &&& 0xF000 = formXK f 0 0 := by
  have h : (f ++ regBits x ++ kk) &&& (0xF#4 ++ 0x0#4 ++ 0x00#8) =
      (f &&& 0xF#4) ++ (regBits x &&& 0x0#4) ++ (kk &&& 0x00#8) := by rw [BitVec.and_append, BitVec.and_append]
  rw [and_F] at h
  simpa [formXK, regBits] using h

theorem formXK_and_F0FF (f : Nibble) (x : Reg) (kk : Byte) : formXK f x kk &&& 0xF0FF = formXK f 0 kk := by
  have h : (f ++ regBits x ++ kk) &&& (0xF#4 ++ 0x0#4 ++ 0xFF#8) =
      (f &&& 0xF#4) ++ (regBits x &&& 0x0#4) ++ (kk &&& 0xFF#8) := by rw [BitVec.and_append, BitVec.and_append]
  have hk : kk &&& 0xFF#8 = kk := BitVec.and_allOnes
  rw [and_F, hk] at h
  simpa [formXK, regBits] using h

theorem formXYN_and_F000 (f : Nibble) (x y : Reg) (n : Nibble) :
    formXYN f x y n &&& 0xF000 = formXYN f 0 0 0 := by
  have h : (f ++ regBits x ++ regBits y ++ n) &&& (0xF#4 ++ 0x0#4 ++ 0x0#4 ++ 0x0#4) =
      (f &&& 0xF#4) ++ (regBits x &&& 0x0#4) ++ (regBits y &&& 0x0#4) ++ (n &&& 0x0#4) := by
    rw [BitVec.and_append, BitVec.and_append, BitVec.and_append]
  rw [and_F] at h
  simpa [formXYN, regBits] using h

theorem formXYN_and_F00F (f : Nibble) (x y : Reg) (n : Nibble) :
    formXYN f x y n &&& 0xF00F = formXYN f 0 0 n := by
  have h : (f ++ regBits x ++ regBits y ++ n) &&& (0xF#4 ++ 0x0#4 ++ 0x0#4 ++ 0xF#4) =
      (f &&& 0xF#4) ++ (regBits x &&& 0x0#4) ++ (regBits y &&& 0x0#4) ++ (n &&& 0xF#4) := by
    rw [BitVec.and_append, BitVec.and_append, BitVec.and_append]
  rw [and_F, and_F] at h
  simpa [formXYN, regBits] using h

/-- A row without exclusions covers the words its mask and match say. -/
theorem covers_of_and {mn : String} {mask value w : Word} (h : w &&& mask = value) :
    (OpcodeRow.mk mn mask value []).covers w = true := by simp [OpcodeRow.covers, h]

/-- The per-instruction claim: the instruction's word lies in the row of its own mnemonic. -/
def Laws.EncodesRow.Statement (i : Instr) : Prop :=
  i.wf = true → ∃ row ∈ opcodeTable, row.mnemonic = i.mnemonic ∧ row.covers (encode i) = true

theorem Laws.EncodesRow.cls : Laws.EncodesRow.Statement .cls := fun _ =>
  ⟨⟨"CLS", 0xFFFF, 0x00E0, []⟩, by decide, rfl, by decide⟩

theorem Laws.EncodesRow.ret : Laws.EncodesRow.Statement .ret := fun _ =>
  ⟨⟨"RET", 0xFFFF, 0x00EE, []⟩, by decide, rfl, by decide⟩

theorem Laws.EncodesRow.sys (a : Addr) : Laws.EncodesRow.Statement (.sys a) := fun h =>
  ⟨⟨"SYS", 0xF000, 0x0000, [0x00E0, 0x00EE]⟩, by decide, rfl, by
    have hm : formA 0x0 a &&& 0xF000 = 0x0000 := formA_and_F000 _ a
    have h0 : ∀ c : Addr, formA 0x0 a = formA 0x0 c → a = c := fun c e => by
      rw [← fieldAddr_formA 0x0 a, e, fieldAddr_formA]
    have h1 : formA 0x0 a ≠ 0x00E0 := fun e => by simp [Instr.wf, h0 0x0E0 e] at h
    have h2 : formA 0x0 a ≠ 0x00EE := fun e => by simp [Instr.wf, h0 0x0EE e] at h
    simp only [OpcodeRow.covers, encode, hm]
    simpa using ⟨h1, h2⟩⟩

theorem Laws.EncodesRow.jp (a : Addr) : Laws.EncodesRow.Statement (.jp a) := fun _ =>
  ⟨⟨"JP", 0xF000, 0x1000, []⟩, by decide, rfl, covers_of_and (formA_and_F000 _ a)⟩

theorem Laws.EncodesRow.call (a : Addr) : Laws.EncodesRow.Statement (.call a) := fun _ =>
  ⟨⟨"CALL", 0xF000, 0x2000, []⟩, by decide, rfl, covers_of_and (formA_and_F000 _ a)⟩

theorem Laws.EncodesRow.se (x : Reg) (kk : Byte) : Laws.EncodesRow.Statement (.se x kk) := fun _ =>
  ⟨⟨"SE", 0xF000, 0x3000, []⟩, by decide, rfl, covers_of_and (formXK_and_F000 _ x kk)⟩

theorem Laws.EncodesRow.sne (x : Reg) (kk : Byte) : Laws.EncodesRow.Statement (.sne x kk) := fun _ =>
  ⟨⟨"SNE", 0xF000, 0x4000, []⟩, by decide, rfl, covers_of_and (formXK_and_F000 _ x kk)⟩

theorem Laws.EncodesRow.sev (x y : Reg) : Laws.EncodesRow.Statement (.sev x y) := fun _ =>
  ⟨⟨"SEV", 0xF00F, 0x5000, []⟩, by decide, rfl, covers_of_and (formXYN_and_F00F _ x y _)⟩

theorem Laws.EncodesRow.snev (x y : Reg) : Laws.EncodesRow.Statement (.snev x y) := fun _ =>
  ⟨⟨"SNEV", 0xF00F, 0x9000, []⟩, by decide, rfl, covers_of_and (formXYN_and_F00F _ x y _)⟩

theorem Laws.EncodesRow.ld (x : Reg) (kk : Byte) : Laws.EncodesRow.Statement (.ld x kk) := fun _ =>
  ⟨⟨"LD", 0xF000, 0x6000, []⟩, by decide, rfl, covers_of_and (formXK_and_F000 _ x kk)⟩

theorem Laws.EncodesRow.add (x : Reg) (kk : Byte) : Laws.EncodesRow.Statement (.add x kk) := fun _ =>
  ⟨⟨"ADD", 0xF000, 0x7000, []⟩, by decide, rfl, covers_of_and (formXK_and_F000 _ x kk)⟩

theorem Laws.EncodesRow.mov (x y : Reg) : Laws.EncodesRow.Statement (.mov x y) := fun _ =>
  ⟨⟨"MOV", 0xF00F, 0x8000, []⟩, by decide, rfl, covers_of_and (formXYN_and_F00F _ x y _)⟩

theorem Laws.EncodesRow.or (x y : Reg) : Laws.EncodesRow.Statement (.or x y) := fun _ =>
  ⟨⟨"OR", 0xF00F, 0x8001, []⟩, by decide, rfl, covers_of_and (formXYN_and_F00F _ x y _)⟩

theorem Laws.EncodesRow.and (x y : Reg) : Laws.EncodesRow.Statement (.and x y) := fun _ =>
  ⟨⟨"AND", 0xF00F, 0x8002, []⟩, by decide, rfl, covers_of_and (formXYN_and_F00F _ x y _)⟩

theorem Laws.EncodesRow.xor (x y : Reg) : Laws.EncodesRow.Statement (.xor x y) := fun _ =>
  ⟨⟨"XOR", 0xF00F, 0x8003, []⟩, by decide, rfl, covers_of_and (formXYN_and_F00F _ x y _)⟩

theorem Laws.EncodesRow.addv (x y : Reg) : Laws.EncodesRow.Statement (.addv x y) := fun _ =>
  ⟨⟨"ADDV", 0xF00F, 0x8004, []⟩, by decide, rfl, covers_of_and (formXYN_and_F00F _ x y _)⟩

theorem Laws.EncodesRow.sub (x y : Reg) : Laws.EncodesRow.Statement (.sub x y) := fun _ =>
  ⟨⟨"SUB", 0xF00F, 0x8005, []⟩, by decide, rfl, covers_of_and (formXYN_and_F00F _ x y _)⟩

theorem Laws.EncodesRow.shr (x y : Reg) : Laws.EncodesRow.Statement (.shr x y) := fun _ =>
  ⟨⟨"SHR", 0xF00F, 0x8006, []⟩, by decide, rfl, covers_of_and (formXYN_and_F00F _ x y _)⟩

theorem Laws.EncodesRow.subn (x y : Reg) : Laws.EncodesRow.Statement (.subn x y) := fun _ =>
  ⟨⟨"SUBN", 0xF00F, 0x8007, []⟩, by decide, rfl, covers_of_and (formXYN_and_F00F _ x y _)⟩

theorem Laws.EncodesRow.shl (x y : Reg) : Laws.EncodesRow.Statement (.shl x y) := fun _ =>
  ⟨⟨"SHL", 0xF00F, 0x800E, []⟩, by decide, rfl, covers_of_and (formXYN_and_F00F _ x y _)⟩

theorem Laws.EncodesRow.ldi (a : Addr) : Laws.EncodesRow.Statement (.ldi a) := fun _ =>
  ⟨⟨"LDI", 0xF000, 0xA000, []⟩, by decide, rfl, covers_of_and (formA_and_F000 _ a)⟩

theorem Laws.EncodesRow.jpv0 (a : Addr) : Laws.EncodesRow.Statement (.jpv0 a) := fun _ =>
  ⟨⟨"JPV0", 0xF000, 0xB000, []⟩, by decide, rfl, covers_of_and (formA_and_F000 _ a)⟩

theorem Laws.EncodesRow.rnd (x : Reg) (kk : Byte) : Laws.EncodesRow.Statement (.rnd x kk) := fun _ =>
  ⟨⟨"RND", 0xF000, 0xC000, []⟩, by decide, rfl, covers_of_and (formXK_and_F000 _ x kk)⟩

theorem Laws.EncodesRow.drw (x y : Reg) (n : Nibble) : Laws.EncodesRow.Statement (.drw x y n) := fun _ =>
  ⟨⟨"DRW", 0xF000, 0xD000, []⟩, by decide, rfl, covers_of_and (formXYN_and_F000 _ x y n)⟩

theorem Laws.EncodesRow.skp (x : Reg) : Laws.EncodesRow.Statement (.skp x) := fun _ =>
  ⟨⟨"SKP", 0xF0FF, 0xE09E, []⟩, by decide, rfl, covers_of_and (formXK_and_F0FF _ x _)⟩

theorem Laws.EncodesRow.sknp (x : Reg) : Laws.EncodesRow.Statement (.sknp x) := fun _ =>
  ⟨⟨"SKNP", 0xF0FF, 0xE0A1, []⟩, by decide, rfl, covers_of_and (formXK_and_F0FF _ x _)⟩

theorem Laws.EncodesRow.ldd (x : Reg) : Laws.EncodesRow.Statement (.ldd x) := fun _ =>
  ⟨⟨"LDD", 0xF0FF, 0xF007, []⟩, by decide, rfl, covers_of_and (formXK_and_F0FF _ x _)⟩

theorem Laws.EncodesRow.ldk (x : Reg) : Laws.EncodesRow.Statement (.ldk x) := fun _ =>
  ⟨⟨"LDK", 0xF0FF, 0xF00A, []⟩, by decide, rfl, covers_of_and (formXK_and_F0FF _ x _)⟩

theorem Laws.EncodesRow.lddv (x : Reg) : Laws.EncodesRow.Statement (.lddv x) := fun _ =>
  ⟨⟨"LDDV", 0xF0FF, 0xF015, []⟩, by decide, rfl, covers_of_and (formXK_and_F0FF _ x _)⟩

theorem Laws.EncodesRow.lds (x : Reg) : Laws.EncodesRow.Statement (.lds x) := fun _ =>
  ⟨⟨"LDS", 0xF0FF, 0xF018, []⟩, by decide, rfl, covers_of_and (formXK_and_F0FF _ x _)⟩

theorem Laws.EncodesRow.addi (x : Reg) : Laws.EncodesRow.Statement (.addi x) := fun _ =>
  ⟨⟨"ADDI", 0xF0FF, 0xF01E, []⟩, by decide, rfl, covers_of_and (formXK_and_F0FF _ x _)⟩

theorem Laws.EncodesRow.ldf (x : Reg) : Laws.EncodesRow.Statement (.ldf x) := fun _ =>
  ⟨⟨"LDF", 0xF0FF, 0xF029, []⟩, by decide, rfl, covers_of_and (formXK_and_F0FF _ x _)⟩

theorem Laws.EncodesRow.ldb (x : Reg) : Laws.EncodesRow.Statement (.ldb x) := fun _ =>
  ⟨⟨"LDB", 0xF0FF, 0xF033, []⟩, by decide, rfl, covers_of_and (formXK_and_F0FF _ x _)⟩

theorem Laws.EncodesRow.ldiv (x : Reg) : Laws.EncodesRow.Statement (.ldiv x) := fun _ =>
  ⟨⟨"LDIV", 0xF0FF, 0xF055, []⟩, by decide, rfl, covers_of_and (formXK_and_F0FF _ x _)⟩

theorem Laws.EncodesRow.ldvi (x : Reg) : Laws.EncodesRow.Statement (.ldvi x) := fun _ =>
  ⟨⟨"LDVI", 0xF0FF, 0xF065, []⟩, by decide, rfl, covers_of_and (formXK_and_F0FF _ x _)⟩

end Sys2Proof
end

