-- ==== Sys2Proof/Laws/Timers.lean ====
section
/-! SUPPORT. The timed registers: set, tick and elapse (spec 60_exceptions.md R320 to R324). -/

namespace Sys2Proof.Machine

@[simp] theorem Timer.set_value (gap : Nat → Nat) (t : Timer) (v : Byte) : (t.set gap v).value = v := by
  unfold Timer.set
  split <;> simp_all

theorem Timer.set_wf (gap : Nat → Nat) (t : Timer) (v : Byte) : (t.set gap v).wf := by
  intro h
  rw [Timer.set_value] at h
  simp [Timer.set, h]

/-- A tick takes one from a value above 0 and leaves 0 at 0 (R322). -/
theorem Timer.tick_value (gap : Nat → Nat) (t : Timer) : (t.tick gap).value.toNat = t.value.toNat - 1 := by
  unfold Timer.tick
  split
  · simp_all
  · rename_i h
    rw [Timer.set_value, BitVec.toNat_sub_of_le]
    · rfl
    · rw [BitVec.le_def]
      have : t.value.toNat ≠ 0 := fun hz => h (BitVec.eq_of_toNat_eq (by simpa using hz))
      show 1 ≤ t.value.toNat
      omega

theorem Timer.tick_wf {gap : Nat → Nat} {t : Timer} (h : t.wf) : (t.tick gap).wf := by
  unfold Timer.tick
  split
  · exact h
  · exact Timer.set_wf gap t _

/-- All a step boundary can do to a timed register: some number of ticks, then perhaps one boundary less to wait. -/
theorem Timer.elapseFor_cases (gap : Nat → Nat) (fuel : Nat) (t : Timer) :
    ∃ n, Timer.elapseFor gap fuel t = t.ticks gap n ∨
      (n < fuel ∧ (t.ticks gap n).phase ≠ 0 ∧
        Timer.elapseFor gap fuel t = { t.ticks gap n with phase := (t.ticks gap n).phase - 1 }) := by
  induction fuel generalizing t with
  | zero => exact ⟨0, .inl rfl⟩
  | succ fuel ih =>
    unfold Timer.elapseFor
    split
    · obtain ⟨n, h | ⟨hn, hp, h⟩⟩ := ih (t.tick gap)
      · exact ⟨n + 1, .inl h⟩
      · exact ⟨n + 1, .inr ⟨by omega, hp, h⟩⟩
    · exact ⟨0, .inr ⟨by omega, by assumption, rfl⟩⟩

theorem Timer.ticks_value (gap : Nat → Nat) (n : Nat) (t : Timer) :
    (t.ticks gap n).value.toNat = t.value.toNat - n := by
  induction n generalizing t with
  | zero => rfl
  | succ n ih => rw [Timer.ticks, ih, Timer.tick_value]; omega

theorem Timer.ticks_wf {gap : Nat → Nat} {t : Timer} (h : t.wf) (n : Nat) : (t.ticks gap n).wf := by
  induction n generalizing t with
  | zero => exact h
  | succ n ih => exact ih (Timer.tick_wf h)

/-- A register at 0 stays as it is. -/
theorem Timer.elapse_of_zero {gap : Nat → Nat} {t : Timer} (h : t.value = 0) : t.elapse gap = t := by
  simp [Timer.elapse, h, Timer.elapseFor]

theorem Timer.elapse_wf {gap : Nat → Nat} {t : Timer} (h : t.wf) : (t.elapse gap).wf := by
  obtain ⟨n, hn | ⟨-, -, hn⟩⟩ := Timer.elapseFor_cases gap t.value.toNat t
  · rw [Timer.elapse, hn]; exact Timer.ticks_wf h n
  · rw [Timer.elapse, hn]
    intro hz
    have := Timer.ticks_wf h (gap := gap) n hz
    simp [this]

end Sys2Proof.Machine
end

