-- ==== Sys2Proof/Tests/Slice0.lean ====
section
/-! SUPPORT. Small tests of single operations and single steps, their expected results from spec/95_test_vectors.md and the rules cited, and a witness for the hypotheses of each statement. -/

namespace Sys2Proof.Tests

open Sys2Proof.Machine

/-- What a step of one instruction leaves, seen through `f`; none if it stops. -/
def obs {α : Type} (f : State → α) : Result → Option α
  | .next t => some (f t)
  | .fault _ => none
  | .refused _ => none

/-- The fault record a result latches. -/
def record (r : Result) : Option FaultRecord := (obs (fun t => t.fault) r).join

/-- A state after creation with two registers set. -/
def with2 (x : Reg) (a : Byte) (y : Reg) (b : Byte) : State := (State.reset.setReg x a).setReg y b

/-- A state after creation with `i` set and some bytes stored there. -/
def withI (a : Word) (bs : List Byte) : State :=
  { State.reset with i := a, mem := State.reset.mem.putBytes a.toNat bs }

/-- A state after creation with a small framebuffer, all clear. -/
def withFb (w h : Nat) (s : State) : State :=
  { s with fb := { width := w, height := h, rows := List.replicate h (List.replicate w false) } }

/-- A state after creation under other parameters. -/
def withParams (p : Params) (s : State) : State := { s with params := p }

/-! ### WellFormed: an ill-formed term for each word the check excludes (30_encoding.md R104) -/

theorem test_wf_refuses_sys_0E0 : (Instr.sys 0x0E0).wf = false := by decide
theorem test_wf_refuses_sys_0EE : (Instr.sys 0x0EE).wf = false := by decide
theorem test_wf_takes_sys_0E1 : (Instr.sys 0x0E1).wf = true := by decide

/-! ### Decoding: a word of every row, written out from its pattern (30_encoding.md R106, 95 section 2) -/

theorem test_decode_format_Z :
    decode .sysFault 0b0000000011100000 = .ok .cls ∧ decode .sysFault 0b0000000011101110 = .ok .ret := by decide

theorem test_decode_format_A :
    decode .sysFault 0b0000000011100001 = .ok (.sys 0x0E1) ∧ decode .sysFault 0b0001101010111100 = .ok (.jp 0xABC) ∧
    decode .sysFault 0b0010101010111100 = .ok (.call 0xABC) ∧ decode .sysFault 0b1010001011110000 = .ok (.ldi 0x2F0) ∧
    decode .sysFault 0b1011001100000000 = .ok (.jpv0 0x300) := by decide

theorem test_decode_format_XK :
    decode .sysFault 0b0011101001111111 = .ok (.se 0xA 0x7F) ∧ decode .sysFault 0b0100101001111111 = .ok (.sne 0xA 0x7F) ∧
    decode .sysFault 0b0110101000111100 = .ok (.ld 0xA 0x3C) ∧ decode .sysFault 0b0111101000111100 = .ok (.add 0xA 0x3C) ∧
    decode .sysFault 0b1100001100001111 = .ok (.rnd 3 0x0F) := by decide

theorem test_decode_format_XY :
    decode .sysFault 0b0101000100100000 = .ok (.sev 1 2) ∧ decode .sysFault 0b1001000100100000 = .ok (.snev 1 2) ∧
    decode .sysFault 0b1000000100100000 = .ok (.mov 1 2) ∧ decode .sysFault 0b1000000100100001 = .ok (.or 1 2) ∧
    decode .sysFault 0b1000000100100010 = .ok (.and 1 2) ∧ decode .sysFault 0b1000000100100011 = .ok (.xor 1 2) ∧
    decode .sysFault 0b1000000100100100 = .ok (.addv 1 2) ∧ decode .sysFault 0b1000000100100101 = .ok (.sub 1 2) ∧
    decode .sysFault 0b1000000100100110 = .ok (.shr 1 2) ∧ decode .sysFault 0b1000000100100111 = .ok (.subn 1 2) ∧
    decode .sysFault 0b1000000100101110 = .ok (.shl 1 2) := by decide

theorem test_decode_format_XYN :
    decode .sysFault 0b1101000100100101 = .ok (.drw 1 2 5) ∧ decode .sysFault 0b1101000000000000 = .ok (.drw 0 0 0) := by
  decide

theorem test_decode_format_X :
    decode .sysFault 0b1110000110011110 = .ok (.skp 1) ∧ decode .sysFault 0b1110000110100001 = .ok (.sknp 1) ∧
    decode .sysFault 0b1111000100000111 = .ok (.ldd 1) ∧ decode .sysFault 0b1111000100001010 = .ok (.ldk 1) ∧
    decode .sysFault 0b1111000100010101 = .ok (.lddv 1) ∧ decode .sysFault 0b1111000100011000 = .ok (.lds 1) ∧
    decode .sysFault 0b1111000100011110 = .ok (.addi 1) ∧ decode .sysFault 0b1111000100101001 = .ok (.ldf 1) ∧
    decode .sysFault 0b1111000100110011 = .ok (.ldb 1) ∧ decode .sysFault 0b1111000101010101 = .ok (.ldiv 1) ∧
    decode .sysFault 0b1111000101100101 = .ok (.ldvi 1) := by decide

theorem test_decode_badcode :
    [0x5121, 0x8128, 0x812D, 0x812F, 0x912F, 0xE19F, 0xF100, 0xF108, 0xF1FF].all
      (fun w => decode .sysFault w == .error (.badCode w)) = true := by decide

theorem test_decode_sys_modes :
    decode .sysFault 0x0000 = .ok (.sys 0) ∧ decode .sysBadCode 0x0000 = .error (.badCode 0x0000) ∧
    decode .sysBadCode 0x00E0 = .ok .cls ∧ decode .sysBadCode 0x00EE = .ok .ret := by decide

theorem test_decodeTableWord : decodeTableWord 16 0xD125 = some (.drw 1 2 5) ∧ decodeTableWord 16 0x5121 = none := by
  decide

/-! ### Control flow (95 section 7) -/

theorem test_jp : obs (·.pc) (exec (.jp 0x234) State.reset) = some 0x234 := by decide
theorem test_jpv0_past_memory : obs (·.pc) (exec (.jpv0 0xFFF) (State.reset.setReg 0 0xFF)) = some 0x10FE := by decide
theorem test_call :
    obs (fun t => (t.pc, t.sp, t.stack[0])) (exec (.call 0x210) { State.reset with pc := 0x204 }) =
      some (0x210, 1, 0x206) := by decide
theorem test_call_overflow :
    record (exec (.call 0x300) { State.reset with sp := 16 }) = some ⟨.stackOverflow 16, 0x200, some 0x2300⟩ := by decide
theorem test_ret :
    obs (fun t => (t.pc, t.sp, t.stack[0]))
      (exec .ret { State.reset with sp := 1, stack := (Vector.replicate 16 0).set 0 0x206 }) =
        some (0x206, 0, 0x206) := by decide
theorem test_ret_underflow : record (exec .ret State.reset) = some ⟨.stackUnderflow 0, 0x200, some 0x00EE⟩ := by decide
theorem test_se : obs (·.pc) (exec (.se 3 0x42) (State.reset.setReg 3 0x42)) = some 0x204 ∧
    obs (·.pc) (exec (.se 3 0x42) (State.reset.setReg 3 0x41)) = some 0x202 := by decide
theorem test_sne : obs (·.pc) (exec (.sne 3 0x42) (State.reset.setReg 3 0x41)) = some 0x204 := by decide
theorem test_sev : obs (·.pc) (exec (.sev 1 2) (with2 1 7 2 7)) = some 0x204 := by decide
theorem test_snev : obs (·.pc) (exec (.snev 1 2) (with2 1 7 2 8)) = some 0x204 ∧
    obs (·.pc) (exec (.snev 1 2) (with2 1 7 2 7)) = some 0x202 := by decide
theorem test_sys : record (exec (.sys 0x123) State.reset) =
    some ⟨.unimplemented .sys 0x0123, 0x200, some 0x0123⟩ := by decide

/-! ### Arithmetic and logic (95 section 3) -/

theorem test_ld : obs (·.reg 0xA) (exec (.ld 0xA 0x3C) State.reset) = some 0x3C := by decide
theorem test_add_keeps_VF : obs (fun t => (t.reg 1, t.reg 15)) (exec (.add 1 0xFF) (with2 1 1 15 7)) = some (0, 7) := by
  decide
theorem test_add_VF : obs (·.reg 15) (exec (.add 15 0xFF) (State.reset.setReg 15 0xFF)) = some 0xFE := by decide
theorem test_mov : obs (·.reg 1) (exec (.mov 1 5) (State.reset.setReg 5 9)) = some 9 := by decide
theorem test_or : obs (fun t => (t.reg 1, t.reg 15)) (exec (.or 1 2) ((with2 1 0x0F 2 0xF0).setReg 15 4)) =
    some (0xFF, 4) := by decide
theorem test_and : obs (·.reg 1) (exec (.and 1 2) (with2 1 0x3C 2 0x0F)) = some 0x0C := by decide
theorem test_xor : obs (·.reg 1) (exec (.xor 1 2) (with2 1 0x3C 2 0x0F)) = some 0x33 ∧
    obs (·.reg 1) (exec (.xor 1 1) (State.reset.setReg 1 0x5A)) = some 0 := by decide
theorem test_addv : obs (fun t => (t.reg 1, t.reg 15)) (exec (.addv 1 2) ((with2 1 0xC8 2 0x64).setReg 15 7)) =
    some (0x2C, 7) := by decide
theorem test_sub_strict : obs (fun t => (t.reg 1, t.reg 15)) (exec (.sub 1 2) ((with2 1 5 2 5).setReg 15 9)) =
    some (0, 0) := by decide
theorem test_sub_VF : obs (·.reg 15) (exec (.sub 15 2) (with2 15 5 2 3)) = some 2 ∧
    obs (fun t => (t.reg 1, t.reg 15)) (exec (.sub 1 15) (with2 1 5 15 3)) = some (2, 1) := by decide
theorem test_subn : obs (fun t => (t.reg 1, t.reg 15)) (exec (.subn 1 2) (with2 1 5 2 3)) = some (0xFE, 0) ∧
    obs (·.reg 15) (exec (.subn 15 2) (with2 15 3 2 5)) = some 2 := by decide
theorem test_subn_literal :
    let s := fun a b => withParams { Params.default with subnFlag := .literal } (with2 1 a 2 b)
    obs (·.reg 15) (exec (.subn 1 2) (s 5 3)) = some 1 ∧ obs (·.reg 15) (exec (.subn 1 2) (s 0 1)) = some 0 := by decide
theorem test_shr : obs (fun t => (t.reg 4, t.reg 15)) (exec (.shr 4 0) (with2 4 0x85 15 7)) = some (0x42, 7) := by decide
theorem test_shr_flag_last :
    obs (·.reg 15) (exec (.shr 15 0) (withParams { Params.default with shiftVf := .shiftedOutBit }
      (State.reset.setReg 15 0x03))) = some 1 := by decide
theorem test_shl : obs (fun t => (t.reg 4, t.reg 15)) (exec (.shl 4 0) (with2 4 0x85 15 7)) = some (0x0A, 7) := by decide
theorem test_shl_flag_last :
    obs (·.reg 15) (exec (.shl 15 0) (withParams { Params.default with shiftVf := .shiftedOutBit }
      (State.reset.setReg 15 0x81))) = some 1 := by decide
theorem test_rnd_masks (s : State) : obs (·.reg 5) (exec (.rnd 5 0xF0) s) = some (Config.rngDraw s.rngIndex &&& 0xF0) := by
  simp [exec, execRnd, obs, State.reg, State.setReg, State.advance]

/-! ### Index register and memory (95 section 4) -/

theorem test_ldi : obs (·.i) (exec (.ldi 0x2F0) State.reset) = some 0x2F0 := by decide
theorem test_addi_no_mask : obs (·.i) (exec (.addi 1) ((State.reset.setReg 1 1).setI 0xFFF)) = some 0x1000 := by decide
theorem test_addi_wraps : obs (·.i) (exec (.addi 1) ((State.reset.setReg 1 1).setI 0xFFFF)) = some 0 := by decide
theorem test_ldf : obs (·.i) (exec (.ldf 1) (State.reset.setReg 1 0x3A)) = some 0x032 ∧
    obs (·.i) (exec (.ldf 1) (State.reset.setReg 1 0xFF)) = some 0x04B := by decide
theorem test_ldb_top :
    obs (fun t => (t.mem.byte 0xFFD, t.mem.byte 0xFFE, t.mem.byte 0xFFF))
      (exec (.ldb 1) ((State.reset.setReg 1 255).setI 0xFFD)) = some (2, 5, 5) := by decide
theorem test_ldb_raises :
    record (exec (.ldb 1) (State.reset.setI 0xFFE)) = some ⟨.exceedsCapacity 0xFFE 3, 0x200, some 0xF133⟩ ∧
    record (exec (.ldb 1) (State.reset.setI 0x04F)) = some ⟨.readOnly 0x04F 3, 0x200, some 0xF133⟩ ∧
    obs (fun t => (t.mem.byte 0x4F, t.mem.byte 0x50, t.mem.byte 0x51))
      (exec (.ldb 1) (withParams { Params.default with fontWrite := .allow } ((State.reset.setReg 1 9).setI 0x04F))) =
        some (0, 0, 9) := by decide
theorem test_ldiv :
    obs (fun t => (t.mem.byte 0xFF3, t.mem.byte 0xFFF, t.i)) (exec (.ldiv 9) ((with2 3 0x33 15 0xEE).setI 0xFF0)) =
      some (0x33, 0xEE, 0xFF0) := by decide
theorem test_ldiv_raises :
    record (exec (.ldiv 0) (State.reset.setI 0xFFF0)) = some ⟨.exceedsCapacity 0xFFF0 16, 0x200, some 0xF055⟩ ∧
    record (exec (.ldiv 0) (State.reset.setI 0x041)) = some ⟨.readOnly 0x041 16, 0x200, some 0xF055⟩ := by decide
theorem test_ldvi_font :
    obs (fun t => (t.reg 0, t.reg 5, t.reg 10, t.reg 15)) (exec (.ldvi 0) State.reset) =
      some (0xF0, 0x20, 0xF0, 0xF0) := by decide
theorem test_ldvi_raises :
    record (exec (.ldvi 0) (State.reset.setI 0xFF1)) = some ⟨.outOfBounds 0xFF1 16, 0x200, some 0xF065⟩ := by decide

/-! ### Display (95 section 5) -/

theorem test_cls : obs (fun t => (t.fb.pixel 1 2, t.fb.width, t.fb.height))
    (exec .cls { State.reset with fb := State.reset.fb.setPixel 1 2 true }) = some (false, 64, 32) := by decide +kernel
/-- Row 5.4: a sprite of two rows 81 81 at (60, 31) wraps both ways. -/
theorem test_drw_wraps :
    obs (fun t => ((List.range 32).flatMap fun y => (List.range 64).filterMap fun x =>
        if t.fb.pixel y x then some (y, x) else none, t.reg 15))
      (exec (.drw 1 2 2) (((withI 0x300 [0x81, 0x81]).setReg 1 0x3C).setReg 2 31)) =
        some ([(0, 3), (0, 60), (31, 3), (31, 60)], 0) := by decide +kernel
/-- Row 5.7: on a 4 x 2 display a row of 8 set bits overlaps itself: all clear, VF = 1. -/
theorem test_drw_overlap :
    obs (fun t => (t.fb.rows, t.reg 15)) (exec (.drw 0 0 1) (withFb 4 2 (withI 0x300 [0xFF]))) =
      some ([[false, false, false, false], [false, false, false, false]], 1) := by decide +kernel
/-- Rows 5.11, 5.12: shrinking drops, growing clears. -/
theorem test_resize :
    (({ width := 3, height := 1, rows := [[true, true, true]] } : Framebuffer).resize 2 1).resize 3 2 =
      { width := 3, height := 2, rows := [[true, true, false], [false, false, false]] } := by decide

/-! ### Timers (95 section 6) -/

theorem test_ldd : obs (·.reg 3) (exec (.ldd 3) { State.reset with delay := ⟨0x20, 4, 0⟩ }) = some 0x20 := by decide
theorem test_lddv : obs (fun t => t.delay.value) (exec (.lddv 3) (State.reset.setReg 3 0x3C)) = some 0x3C := by decide
theorem test_lddv_zero_stops : obs (·.delay) (exec (.lddv 3) { State.reset with delay := ⟨5, 2, 7⟩ }) = some ⟨0, 0, 7⟩ := by
  decide
theorem test_lds : obs (fun t => (t.sound.value, t.delay.value)) (exec (.lds 3) (State.reset.setReg 3 5)) =
    some (5, 0) := by decide
theorem test_ldd_waiting_timer (t : Timer) (h : t.value ≠ 0) (hp : t.phase = 1) (gap : Nat → Nat) :
    (t.elapse gap).value = t.value := by
  have hv : t.value.toNat ≠ 0 := fun e => h (BitVec.eq_of_toNat_eq e)
  obtain ⟨k, hk⟩ := Nat.exists_eq_succ_of_ne_zero hv
  simp [Timer.elapse, hk, Timer.elapseFor, hp]
/-- Row 6.9. -/
theorem test_timed :
    (((⟨0, 0⟩ : TimedTimer).set 3).advance 10 9).value = 3 ∧ (((⟨0, 0⟩ : TimedTimer).set 3).advance 10 10).value = 2 ∧
    (((⟨0, 0⟩ : TimedTimer).set 3).advance 10 30).value = 0 := by decide

/-! ### Key instructions (95 section 8) -/

theorem test_skp : record (exec (.skp 1) State.reset) = some ⟨.unimplemented .skp 0xE19E, 0x200, some 0xE19E⟩ := by decide
theorem test_sknp : record (exec (.sknp 1) State.reset) = some ⟨.unimplemented .sknp 0xE1A1, 0x200, some 0xE1A1⟩ := by decide
theorem test_ldk : record (exec (.ldk 3) { State.reset with pc := 0x204 }) =
    some ⟨.unimplemented .ldk 0xF30A, 0x204, some 0xF30A⟩ := by decide

/-! ### The step -/

/-- Row 7.17: an odd fetch address. -/
theorem test_step_odd_fetch :
    obs (fun t => (t.reg 0, t.pc)) (step ({ State.reset with pc := 0x201 }.withFetchWord 16 0x6077)) =
      some (0x77, 0x203) := by decide
/-- Rows 7.15, 7.16: the last fetchable word is at 0xFFE. -/
theorem test_step_top_of_memory :
    obs (·.pc) (step ({ State.reset with pc := 0xFFE }.withFetchWord 16 0x1200)) = some 0x200 ∧
    record (step { State.reset with pc := 0xFFF }) = some ⟨.outOfBounds 0xFFF 2, 0xFFF, none⟩ := by decide
theorem test_step_badcode : record (step (State.reset.withFetchWord 16 0x5121)) =
    some ⟨.badCode 0x5121, 0x200, some 0x5121⟩ := by decide
/-- P4c: cleared memory is SYS 0x000. -/
theorem test_step_from_reset : record (step State.reset) =
    some ⟨.unimplemented .sys 0x0000, 0x200, some 0x0000⟩ := by decide
/-- R356: after a reset nothing of the old program is left, and the illegal word 0x0000 raises under SysBadCode. -/
theorem test_step_after_reset :
    record (step (hostReset (withParams { Params.default with sysMode := .sysBadCode } (withI 0x200 [0x12, 0x00])))) =
      some ⟨.badCode 0x0000, 0x200, some 0x0000⟩ := by decide
/-- S3: too large a program is rejected; one of 3 bytes reads back. -/
theorem test_load :
    (match loadProgram State.reset [0x12, 0x34, 0xAB] with
      | .ok t => [t.mem.byte 0x200, t.mem.byte 0x201, t.mem.byte 0x202, t.mem.byte 0]
      | .error _ => []) = [0x12, 0x34, 0xAB, 0xF0] := by decide
theorem test_load_too_large :
    loadProgram State.reset (List.replicate 3585 0) = .error (.programTooLarge 3585) := by
  unfold loadProgram
  rw [List.length_replicate]
  exact if_pos (by decide)
/-- R350: reset clears 0x200 up, and the font stays. -/
theorem test_reset : ((hostReset (withI 0x1FF [7, 8])).mem.byte 0x1FF, (hostReset (withI 0x1FF [7, 8])).mem.byte 0x200) =
    (7, 0) := by decide

/-- R300: the codes in the table's order, and classes of the two kinds that share one. -/
theorem test_error_codes :
    [Error.badCode 0, .invalidRegister 16, .outOfBounds 0 1, .exceedsCapacity 0 1, .readOnly 0 1,
      .unimplemented .skp 0, .stackOverflow 16, .stackUnderflow 0, .programTooLarge 3585].map Error.code =
        [1, 2, 3, 4, 5, 6, 7, 8, 9] ∧
    (Error.readOnly 0 1).errorClass = .memoryError ∧ (Error.stackUnderflow 0).errorClass = .stackError := by decide
/-- R33: the bank rejects an index of 16, and takes 15. -/
theorem test_bank_bounds : State.reset.bankGet 16 = .error (.invalidRegister 16) ∧ State.reset.bankGet 15 = .ok 0 := by
  decide
/-- Row 7.19: a step on a latched machine answers its record. -/
theorem test_latched :
    (hostStep (hostStep State.reset).1).2 = .fault ⟨.unimplemented .sys 0x0000, 0x200, some 0x0000⟩ := by decide

/-! ### Witnesses: each statement's hypotheses hold together somewhere, at the boundaries of their ranges -/

/-- A clean state about to run a word. -/
def at16 (w : Nat) (s : State) : State := s.withFetchWord 16 w

theorem witness_ResetIsDefaultCreation : ∃ font : Vector Byte 80, font.toList = Config.fontTable :=
  ⟨⟨Config.fontTable.toArray, rfl⟩, rfl⟩

theorem witness_LoadProgramWritesAtBase :
    State.reset.mem.wf ∧ 3584 < (List.replicate 3585 (0 : Byte)).length ∧
    (List.replicate 3584 (0 : Byte)).length ≤ 3584 := by
  refine ⟨by decide, ?_, Nat.le_of_eq List.length_replicate⟩
  rw [List.length_replicate]
  decide

theorem witness_LoadRoundTrip : State.reset.mem.wf ∧ ∃ t, loadProgram State.reset [0x12, 0x34] = .ok t :=
  ⟨by decide, _, rfl⟩

theorem witness_DecodeOfEncode : (Instr.drw 15 15 15).wf = true ∧ ((∃ a, Instr.drw 15 15 15 = .sys a) → SysMode.sysBadCode = .sysFault) ∧
    (Instr.sys 0xFFF).wf = true := ⟨rfl, fun ⟨_, h⟩ => Instr.noConfusion h, rfl⟩

theorem witness_EncodeOfDecode : decode .sysBadCode 0xF965 = .ok (.ldvi 9) := by decide

theorem witness_IllegalWordsRaiseBadCode :
    let s := at16 0x5121 State.reset
    s.fault = none ∧ s.wordAtPc 0x5121 ∧ decode s.params.sysMode 0x5121 = .error (.badCode 0x5121) := by
  refine ⟨rfl, ⟨?_, ?_⟩, ?_⟩ <;> decide

theorem witness_DecodingIgnoresState :
    let s := at16 0x6177 State.reset
    let s' := { at16 0x6177 { State.reset with pc := 0xFFE } with i := 5 }
    s.wordAtPc 0x6177 ∧ s'.wordAtPc 0x6177 ∧ s.params.sysMode = s'.params.sysMode := by
  refine ⟨⟨?_, ?_⟩, ⟨?_, ?_⟩, rfl⟩ <;> decide

theorem witness_StepRunsDecodedInstruction :
    let s := at16 0x6A3C State.reset
    s.fault = none ∧ s.wordAtPc 0x6A3C ∧ decode s.params.sysMode 0x6A3C = .ok (.ld 0xA 0x3C) := by
  refine ⟨rfl, ⟨?_, ?_⟩, ?_⟩ <;> decide

theorem witness_FetchBeyondMemoryRaises :
    let s := { State.reset with pc := 0xFFF }
    s.fault = none ∧ 4096 < s.pc.toNat + 2 := by decide

theorem witness_FaultsArePrecise : ∃ t r w, State.reset.fault = none ∧ State.reset.engineStep = .next t ∧
    t.fault = some r ∧ State.reset.wordAtPc w := ⟨_, _, 0, rfl, rfl, rfl, by decide, by decide⟩

theorem witness_FaultsArePrecise_fetch : ∃ t r, ({ State.reset with pc := 0xFFF } : State).engineStep = .next t ∧
    t.fault = some r := ⟨_, _, rfl, rfl⟩

theorem witness_LatchedMachineTakesNoStep : ∃ r, (State.reset.takeFault (.stackUnderflow 0) (some 0x00EE)).fault = some r :=
  ⟨_, rfl⟩

theorem witness_ErrorsPerInstruction : ∃ t, exec (.ldk 15) State.reset = .next t ∧ ∃ u r, State.reset.fault = none ∧
    State.reset.engineStep = .next u ∧ u.fault = some r := ⟨_, rfl, _, _, rfl, rfl, rfl⟩

theorem witness_InstructionsNeverStop : State.reset.fault = none := rfl

theorem witness_SysRaisesUnimplemented : (0x0E1 : Addr) ≠ 0x0E0 ∧ (0x0E1 : Addr) ≠ 0x0EE := by decide

theorem witness_CallPushesReturnAddress :
    let s := { State.reset with sp := 15 }
    let u := { State.reset with sp := 16 }
    s.sp.val < 16 ∧ u.sp.val = 16 := by decide

theorem witness_RetPopsReturnAddress :
    let s := { State.reset with sp := 16 }
    let u := { State.reset with sp := 1 }
    s.sp.val = 15 + 1 ∧ u.sp.val = 0 + 1 ∧ State.reset.sp.val = 0 := by decide

theorem witness_CallThenRetReturns : ∃ t u : State, State.reset.sp.val < 16 ∧ exec (.call 0x210) State.reset = .next t ∧
    u.sp = t.sp ∧ u.stack = t.stack := ⟨_, _, by decide, rfl, rfl, rfl⟩

theorem witness_SubSetsStrictFlag : (14 : Reg) ≠ 15 := by decide

theorem witness_SubnSetsFlagByRule : (14 : Reg) ≠ 15 ∧ State.reset.params.subnFlag = .conventional ∧
    (withParams { Params.default with subnFlag := .literal } State.reset).params.subnFlag = .literal := by decide

theorem witness_ShiftsInPlace : State.reset.params.shiftVf = .unchanged ∧
    (withParams { Params.default with shiftVf := .shiftedOutBit } State.reset).params.shiftVf = .shiftedOutBit := by
  decide

theorem witness_LdbStoresDecimalDigits :
    State.reset.mem.wf ∧ 4096 < (State.reset.setI 0xFFE).i.toNat + 3 ∧ (State.reset.setI 0xFFD).i.toNat + 3 ≤ 4096 ∧
    (State.reset.setI 0x04F).i.toNat < 0x50 ∧ 0x50 ≤ (State.reset.setI 0x050).i.toNat ∧
    State.reset.params.fontWrite = .fault ∧
    (withParams { Params.default with fontWrite := .allow } (State.reset.setI 0x04F)).params.fontWrite = .allow := by
  decide

theorem witness_LdivStoresAllRegisters :
    State.reset.mem.wf ∧ 4096 < (State.reset.setI 0xFF1).i.toNat + 16 ∧ (State.reset.setI 0xFF0).i.toNat + 16 ≤ 4096 ∧
    (State.reset.setI 0x04F).i.toNat < 0x50 ∧ 0x50 ≤ (State.reset.setI 0x050).i.toNat ∧
    State.reset.params.fontWrite = .fault := by decide

theorem witness_LdviLoadsAllRegisters :
    4096 < (State.reset.setI 0xFF1).i.toNat + 16 ∧ (State.reset.setI 0xFF0).i.toNat + 16 ≤ 4096 := by decide

theorem witness_LdivThenLdviRestores : ∃ t u : State, (State.reset.setI 0xFF0).mem.wf ∧ (State.reset.setI 0xFF0).fault = none ∧
    exec (.ldiv 3) (State.reset.setI 0xFF0) = .next t ∧ t.fault = none ∧ u.mem = t.mem ∧ u.i = t.i :=
  ⟨_, _, by decide, rfl, rfl, rfl, rfl, rfl⟩

theorem witness_MemoryRangesAreChecked :
    State.reset.mem.wf ∧ 4096 < 4096 + 1 ∧ 4096 + 0 ≤ 4096 ∧ 0x4F + [(0 : Byte)].length ≤ 4096 ∧ 0x4F < 0x50 ∧
    [(0 : Byte)] ≠ [] ∧ 0xFFF + [(0 : Byte)].length ≤ 4096 ∧ 0x50 ≤ 0xFFF := by decide

theorem witness_StoredWordsAreFetched :
    let s := State.reset.setI 0x202
    let u := State.reset.setI 0x201
    s.mem.wf ∧ s.fault = none ∧ (∃ t, exec (.ldiv 0) s = .next t ∧ t.fault = none ∧ t.pc.toNat = s.i.toNat + 0) ∧
    (∃ t, exec (.ldb 0) s = .next t ∧ t.fault = none ∧ t.pc = s.i) ∧
    (∃ t, exec (.ldb 0) u = .next t ∧ t.fault = none ∧ t.pc.toNat = u.i.toNat + 1) :=
  ⟨by decide, rfl, ⟨_, rfl, rfl, rfl⟩, ⟨_, rfl, rfl, rfl⟩, ⟨_, rfl, rfl, rfl⟩⟩

theorem witness_WhichInstructionsWriteWhat : ∃ t, exec (.ldf 1) (State.reset.setReg 1 1) = .next t ∧
    t.i ≠ (State.reset.setReg 1 1).i := ⟨_, rfl, by decide⟩

theorem witness_DrwCompletesOrRaises :
    4096 < (State.reset.setI 0xFF2).i.toNat + (0xF : Nibble).toNat ∧
    (State.reset.setI 0xFF1).i.toNat + (0xF : Nibble).toNat ≤ 4096 ∧
    (State.reset.setI 0x1000).i.toNat + (0 : Nibble).toNat ≤ 4096 := by decide

theorem witness_DrwXorsWrappedSprite : State.reset.fb.wf ∧ 8 ≤ State.reset.fb.width ∧
    (0xF : Nibble).toNat ≤ State.reset.fb.height ∧ (State.reset.setI 0xFF1).i.toNat + (0xF : Nibble).toNat ≤ 4096 := by
  decide

/-- The display of row 5.7 (4 x 2, a row of 8 set bits): two bits land on a pixel of row 0, none on row 1. -/
theorem witness_DrwXorsWrappedSprite_overlap :
    let s := withFb 4 2 (withI 0x300 [0xFF])
    s.fb.wf ∧ s.i.toNat + (1 : Nibble).toNat ≤ 4096 ∧ spriteCount s 0 0 1 0 3 = 2 ∧ spriteCount s 0 0 1 1 3 = 0 := by
  decide +kernel

theorem witness_DrawingTwiceRestores : (withFb 8 2 State.reset).fb.wf ∧ (∀ b ∈ [(0 : Byte)], b = 0) ∧
    8 ≤ (withFb 8 2 State.reset).fb.width ∧ [(0x80 : Byte), 1].length ≤ (withFb 8 2 State.reset).fb.height ∧
    ∀ y x, (withFb 8 2 State.reset).fb.pixel y x = false := by
  refine ⟨by decide, by simp, by decide, by decide, fun y x => ?_⟩
  simp only [Framebuffer.pixel, withFb, List.getD_eq_getElem?_getD, List.getElem?_replicate]
  split
  · simp only [Option.getD_some, List.getElem?_replicate]
    split <;> rfl
  · rfl

theorem witness_ResizeKeepsPixels : 1 ≤ 1 ∧ (0 = 0 ∨ 5 = 0) := by decide

theorem witness_TickDecrementsOnce : 0 < (⟨1, 0, 0⟩ : Timer).value.toNat ∧ (⟨0, 0, 0⟩ : Timer).value = 0 := by decide

theorem witness_TicksCountDownToZero : (255 : Byte).toNat ≤ 255 := by decide

theorem witness_ElapseIsSomeTicks : (⟨1, 0, 0⟩ : Timer).value ≠ 0 ∧ (⟨1, 0, 0⟩ : Timer).phase = 0 ∧
    (⟨255, 1, 0⟩ : Timer).value ≠ 0 ∧ (⟨255, 1, 0⟩ : Timer).phase = 0 + 1 := by decide

theorem witness_TimedTimerDecrementsPerPeriod : 0 < 1 := by decide

theorem witness_StepKeepsInvariant : State.reset.Inv ∧ ∃ t, step State.reset = .next t := ⟨by decide, _, rfl⟩

theorem witness_EveryActionKeepsInvariant : State.reset.Inv := by decide

theorem witness_PcStaysBounded : State.reset.pcBounded ∧ ∃ t, step State.reset = .next t :=
  ⟨⟨by decide, fun k _ h => absurd h (Nat.not_lt_zero k)⟩, _, rfl⟩

theorem witness_FontTableIsImmutable : State.reset.Inv ∧ State.reset.params.fontWrite = .fault ∧
    Reaches State.reset (act (.load [0x12, 0x00]) State.reset).1 ∧ 0x4F < 0x50 :=
  ⟨by decide, rfl, ⟨[.load [0x12, 0x00]], rfl⟩, by decide⟩

theorem witness_TimerPhaseIsHidden :
    let s := { State.reset with delay := ⟨5, 1, 0⟩ }
    let s' := { State.reset with delay := ⟨5, 9, 3⟩ }
    s ≠ s' ∧ s.visible = s'.visible ∧ s.fault = none := by
  refine ⟨fun h => ?_, rfl, rfl⟩
  have := congrArg (fun u => u.delay.phase) h
  simp at this

theorem witness_StepIsTicksThenEngineStep : ∃ t, step (at16 0x6A3C State.reset) = .next t := ⟨_, rfl⟩

theorem witness_SelfJumpOnlyTicks : (at16 0x1200 State.reset).fault = none ∧ (at16 0x1200 State.reset).atSelfJump :=
  ⟨rfl, 0x200, rfl, by decide, by decide⟩

theorem witness_HostReadsChangeNothing : 4096 < 4096 + 1 ∧ 4095 + 1 ≤ 4096 := by decide

end Sys2Proof.Tests
end

section
/-! SUPPORT. What one instruction, and so one step of the engine, can do to memory, the display, the timers and the
parameters; with it, every action of every agent keeps the invariant (spec 00_scope.md R12, 10_state.md R47, R48, R50). -/

namespace Sys2Proof.Machine

/-! ### What an instruction can write -/

/-- How memory, the display, the timers and the parameters of `t` come from those of `s` when `t` is what an instruction
begun in `s` leaves: at most one checked store, one clear or blit, and one `set` of each timer. -/
structure State.Writes (s t : State) : Prop where
  mem : t.mem = s.mem ∨ ∃ start bs, s.mem.setRange s.params.fontWrite start bs = .ok t.mem
  fb : t.fb = s.fb ∨ t.fb = s.fb.clear ∨ ∃ sx sy bs, t.fb = (s.fb.drawBytesAt sx sy bs).1
  delay : t.delay = s.delay ∨ ∃ v, t.delay = s.delay.set Config.delayGap v
  sound : t.sound = s.sound ∨ ∃ v, t.sound = s.sound.set Config.soundGap v
  params : t.params = s.params

theorem State.Writes.of_kept {s t : State} (hm : t.mem = s.mem) (hf : t.fb = s.fb) (hd : t.delay = s.delay)
    (hs : t.sound = s.sound) (hp : t.params = s.params) : s.Writes t :=
  ⟨.inl hm, .inl hf, .inl hd, .inl hs, hp⟩

theorem State.Writes.refl (s : State) : s.Writes s := .of_kept rfl rfl rfl rfl rfl

theorem State.Writes.of_takeFault (s : State) (e : Error) (w : Option Word) : s.Writes (s.takeFault e w) :=
  .of_kept rfl rfl rfl rfl rfl

/-- An instruction that may raise writes what its result writes, or only the latch (R302). -/
theorem finish_writes {s : State} {ins : Instr} {r : Except Error State} (h : ∀ t, r = .ok t → s.Writes t) :
    ∃ t, finish s ins r = .next t ∧ s.Writes t := by
  cases r with
  | ok t => exact ⟨t, rfl, h t rfl⟩
  | error e => exact ⟨_, rfl, .of_takeFault s e _⟩

/-- The same of a result made from the answer of a checked operation: a read, a store, a push. -/
theorem finish_map_writes {α : Type} {s : State} {ins : Instr} {r : Except Error α} {f : α → State}
    (h : ∀ a, r = .ok a → s.Writes (f a)) : ∃ t, finish s ins (r.map f) = .next t ∧ s.Writes t := by
  cases r with
  | ok a => exact ⟨f a, rfl, h a rfl⟩
  | error e => exact ⟨_, rfl, .of_takeFault s e _⟩

/-- Every instruction answers a next state, and what it can write. -/
theorem exec_writes (ins : Instr) (s : State) : ∃ t, exec ins s = .next t ∧ s.Writes t := by
  cases ins with
  | jp addr | ld x kk | add x kk | mov x y | or x y | and x y | xor x y | addv x y | sub x y | subn x y
  | ldi addr | jpv0 addr | rnd x kk | ldd x | addi x | ldf x =>
    exact ⟨_, rfl, .of_kept rfl rfl rfl rfl rfl⟩
  | se x kk | sne x kk | sev x y | snev x y | shr x y | shl x y =>
    exact ⟨_, rfl, .of_kept (by simp) (by simp) (by simp) (by simp) (by simp)⟩
  | sys addr | skp x | sknp x | ldk x => exact ⟨_, rfl, .of_takeFault s _ _⟩
  | cls => exact ⟨_, rfl, .inl rfl, .inr (.inl rfl), .inl rfl, .inl rfl, rfl⟩
  | lddv x => exact ⟨_, rfl, .inl rfl, .inl rfl, .inr ⟨s.reg x, rfl⟩, .inl rfl, rfl⟩
  | lds x => exact ⟨_, rfl, .inl rfl, .inl rfl, .inl rfl, .inr ⟨s.reg x, rfl⟩, rfl⟩
  | ret =>
    refine finish_writes fun t ht => ?_
    obtain ⟨-, -, -, hp⟩ := State.popToPc_ok ht
    rw [hp]
    exact .of_kept rfl rfl rfl rfl rfl
  | call addr =>
    refine finish_map_writes fun u hu => ?_
    obtain ⟨-, -, -, hp⟩ := State.push_ok hu
    rw [hp]
    exact .of_kept rfl rfl rfl rfl rfl
  | drw x y n =>
    refine finish_map_writes fun bs _ => ?_
    exact ⟨.inl rfl, .inr (.inr ⟨(s.reg x).toNat, (s.reg y).toNat, bs, rfl⟩), .inl rfl, .inl rfl, rfl⟩
  | ldb x | ldiv x =>
    exact finish_map_writes fun _ hm => ⟨.inr ⟨_, _, hm⟩, .inl rfl, .inl rfl, .inl rfl, rfl⟩
  | ldvi x => exact finish_map_writes fun _ _ => .of_kept (by simp) (by simp) (by simp) (by simp) (by simp)

/-- So does a step of the engine, whose own raises write only the latch. -/
theorem State.engineStep_writes (s : State) : ∃ t, s.engineStep = .next t ∧ s.Writes t := by
  obtain ⟨_, ins, -, -, h⟩ | ⟨_, _, -, -, h⟩ | ⟨_, -, h⟩ := s.engineStep_cases
  · rw [h]; exact exec_writes ins s
  · exact ⟨_, h, .of_takeFault s _ _⟩
  · exact ⟨_, h, .of_takeFault s _ _⟩

theorem Timer.wf_of_kept_or_set {gap : Nat → Nat} {t u : Timer} (h : u = t ∨ ∃ v, u = t.set gap v) (ht : t.wf) :
    u.wf := by
  obtain rfl | ⟨v, rfl⟩ := h
  · exact ht
  · exact Timer.set_wf gap t v

/-- What writes no more than an instruction does keeps the invariant and the parameters. -/
theorem State.Writes.keeps_inv {s t : State} (h : s.Writes t) (hi : s.Inv) : t.Inv ∧ t.params = s.params := by
  obtain ⟨hm, hf, hd, hs⟩ := hi
  refine ⟨⟨?_, ?_, ?_, ?_⟩, h.params⟩
  · obtain he | ⟨start, bs, he⟩ := h.mem
    · exact he ▸ hm
    · exact Memory.setRange_wf hm he
  · obtain he | he | ⟨sx, sy, bs, he⟩ := h.fb <;> rw [he]
    · exact hf
    · exact Framebuffer.clear_wf hf
    · exact (s.fb.drawBytesAt_shape sx sy bs).2.2 hf
  · exact Timer.wf_of_kept_or_set h.delay hd
  · exact Timer.wf_of_kept_or_set h.sound hs

/-! ### The actions of the agents -/

theorem hostStep_of_latched {s : State} {r : FaultRecord} (h : s.fault = some r) : hostStep s = (s, .fault r) := by
  simp [hostStep, h]

theorem hostStep_of_clean {s t : State} (h : s.fault = none) (he : s.engineStep = .next t) :
    hostStep s = (t, stepReply t) := by
  simp [hostStep, h, he]

/-- A host's step writes nothing while a fault is latched (R303), and otherwise what the engine's step writes. -/
theorem hostStep_writes (s : State) : s.Writes (hostStep s).1 := by
  cases hf : s.fault with
  | some r => rw [hostStep_of_latched hf]; exact .refl s
  | none =>
    obtain ⟨t, he, ht⟩ := s.engineStep_writes
    rw [hostStep_of_clean hf he]
    exact ht

theorem hostReset_inv {s : State} (h : s.Inv) : (hostReset s).Inv := by
  obtain ⟨hm, hf, -, -⟩ := h
  exact ⟨Memory.clear_wf hm, Framebuffer.clear_wf hf, Timer.set_wf Config.delayGap _ 0,
    Timer.set_wf Config.soundGap _ 0⟩

/-- All a load can do (R353): it is rejected and changes nothing, or it resets the machine and writes the program. -/
theorem act_load_fst (s : State) (bytes : List Byte) :
    (act (.load bytes) s).1 = s ∨
      (act (.load bytes) s).1 = { hostReset s with mem := (hostReset s).mem.putBytes Config.progBase bytes } := by
  by_cases h : Config.progMax < bytes.length
  · exact .inl (by simp [act, loadProgram, h])
  · exact .inr (by simp [act, loadProgram, h])

theorem act_readMemory_fst (s : State) (start len : Nat) : (act (.readMemory start len) s).1 = s := by
  cases h : s.mem.getRange start len <;> simp [act, h]

/-- Settles O54: the engine's step by what it can write, each host operation and tick by its own law. -/
theorem everyActionKeepsInvariant : Obligations.EveryActionKeepsInvariant := by
  intro s e hi
  have ⟨hm, hf, hd, hs⟩ := hi
  cases e with
  | step => exact (hostStep_writes s).keeps_inv hi
  | tickDelay => exact ⟨⟨hm, hf, Timer.tick_wf hd, hs⟩, rfl⟩
  | tickSound => exact ⟨⟨hm, hf, hd, Timer.tick_wf hs⟩, rfl⟩
  | reset => exact ⟨hostReset_inv hi, rfl⟩
  | load bytes =>
    obtain h | h := act_load_fst s bytes <;> rw [h]
    · exact ⟨hi, rfl⟩
    · obtain ⟨hm', hrest⟩ := hostReset_inv hi
      exact ⟨⟨Memory.putBytes_wf hm' _ bytes, hrest⟩, rfl⟩
  | resize w h => exact ⟨⟨hm, Framebuffer.resize_wf hf w h, hd, hs⟩, rfl⟩
  | pollFramebuffer | pollDelay | pollSound => exact ⟨hi, rfl⟩
  | readMemory start len => rw [act_readMemory_fst]; exact ⟨hi, rfl⟩

end Sys2Proof.Machine
end

section
/-! SUPPORT. The engine does not read what `State.visible` sets aside (spec 10_state.md R51), and a step of the model is
a run of the agents (00_scope.md R12, 60_exceptions.md R324, log entry 4). -/

namespace Sys2Proof.Machine

/-! ### The engine and the hidden part of the timers -/

/-- Both results are next states, equal up to the hidden phases and gap counters. -/
def sameVisible (r r' : Result) : Prop := ∃ t t', r = .next t ∧ r' = .next t' ∧ t.visible = t'.visible

theorem sameVisible.symm {r r' : Result} (h : sameVisible r r') : sameVisible r' r := by
  obtain ⟨t, t', hr, hr', ht⟩ := h
  exact ⟨t', t, hr', hr, ht.symm⟩

theorem sameVisible.trans {r r' r'' : Result} (h : sameVisible r r') (h' : sameVisible r' r'') :
    sameVisible r r'' := by
  obtain ⟨t, t', hr, hr', ht⟩ := h
  obtain ⟨u, t'', hu, hr'', hu'⟩ := h'
  obtain rfl : t' = u := Host.Outcome.next.inj (hr'.symm.trans hu)
  exact ⟨t, t'', hr, hr'', ht.trans hu'⟩

@[simp] theorem State.visible_params (s : State) : s.visible.params = s.params := rfl
@[simp] theorem State.visible_fetch (s : State) : s.visible.fetch = s.fetch := rfl

theorem State.visible_push (s : State) (v : Word) : s.visible.push v = (s.push v).map State.visible := by
  unfold State.push
  by_cases h : s.sp.val < 16
  · rw [dif_pos h, dif_pos (show s.visible.sp.val < 16 from h)]; rfl
  · rw [dif_neg h, dif_neg (show ¬ s.visible.sp.val < 16 from h)]; rfl

theorem State.visible_popToPc (s : State) : s.visible.popToPc = s.popToPc.map State.visible := by
  unfold State.popToPc
  by_cases h : 0 < s.sp.val
  · rw [dif_pos h, dif_pos (show 0 < s.visible.sp.val from h)]; rfl
  · rw [dif_neg h, dif_neg (show ¬ 0 < s.visible.sp.val from h)]; rfl

theorem State.visible_skipIf (s : State) (c : Bool) : s.visible.skipIf c = (s.skipIf c).visible := by
  cases c <;> rfl

theorem State.visible_setShiftFlag (s : State) (b : Bool) :
    s.visible.setShiftFlag b = (s.setShiftFlag b).visible := by
  unfold State.setShiftFlag
  rw [State.visible_params]
  cases s.params.shiftVf <;> rfl

/-- `Delay.set` reads only the gap counter, and what it draws is hidden. -/
theorem State.visible_setDelay (s : State) (v : Byte) : (s.visible.setDelay v).visible = (s.setDelay v).visible := by
  simp [State.visible]

theorem State.visible_setSound (s : State) (v : Byte) : (s.visible.setSound v).visible = (s.setSound v).visible := by
  simp [State.visible]

/-- An instruction that may raise, run without the hidden part: its result without it, or the same raise. -/
theorem finish_sameVisible {s : State} {ins : Instr} {r r' : Except Error State} (h : r' = r.map State.visible) :
    sameVisible (finish s ins r) (finish s.visible ins r') := by
  subst h
  cases r with
  | ok t => exact ⟨t, t.visible, rfl, rfl, rfl⟩
  | error e => exact ⟨_, _, rfl, rfl, rfl⟩

/-- The same of a result made from the answer of a checked operation on the part of the state that stays. -/
theorem finish_map_sameVisible {α : Type} {s : State} {ins : Instr} {r : Except Error α} {f f' : α → State}
    (h : ∀ a, f' a = (f a).visible) : sameVisible (finish s ins (r.map f)) (finish s.visible ins (r.map f')) :=
  finish_sameVisible (by rw [funext h]; cases r <;> rfl)

/-- No instruction reads the hidden part of the timers (R51). -/
theorem exec_visible (ins : Instr) (s : State) : sameVisible (exec ins s) (exec ins s.visible) := by
  cases ins with
  | cls | jp addr | ld x kk | add x kk | mov x y | or x y | and x y | xor x y | addv x y | sub x y | subn x y
  | ldi addr | jpv0 addr | rnd x kk | ldd x | addi x | ldf x | sys addr | skp x | sknp x | ldk x =>
    exact ⟨_, _, rfl, rfl, rfl⟩
  | se x kk | sne x kk | sev x y | snev x y =>
    exact ⟨_, _, rfl, rfl, (congrArg State.visible (State.visible_skipIf s.advance _)).symm⟩
  | shr x y | shl x y =>
    exact ⟨_, _, rfl, rfl, (congrArg State.visible (State.visible_setShiftFlag (s.advance.setReg x _) _)).symm⟩
  | lddv x => exact ⟨_, _, rfl, rfl, (State.visible_setDelay s.advance (s.reg x)).symm⟩
  | lds x => exact ⟨_, _, rfl, rfl, (State.visible_setSound s.advance (s.reg x)).symm⟩
  | ret => exact finish_sameVisible s.advance.visible_popToPc
  | call addr =>
    refine finish_sameVisible ?_
    rw [show s.visible.advance.push s.visible.advance.pc = _ from s.advance.visible_push s.advance.pc]
    cases s.advance.push s.advance.pc <;> rfl
  | drw x y n | ldb x | ldiv x | ldvi x => exact finish_map_sameVisible fun _ => rfl

theorem State.engineStep_visible (s : State) : sameVisible s.engineStep s.visible.engineStep := by
  unfold State.engineStep
  rw [State.visible_fetch]
  cases s.fetch with
  | error e => exact ⟨_, _, rfl, rfl, rfl⟩
  | ok w =>
    show sameVisible (s.runWord w) (s.visible.runWord w)
    unfold State.runWord
    rw [State.visible_params]
    cases decode s.params.sysMode w with
    | error e => exact ⟨_, _, rfl, rfl, rfl⟩
    | ok ins => exact exec_visible ins s

/-- States that differ only in the hidden part step to states that differ only in it. -/
theorem State.engineStep_sameVisible {s s' : State} (h : s.visible = s'.visible) :
    sameVisible s.engineStep s'.engineStep :=
  s.engineStep_visible.trans (h ▸ s'.engineStep_visible.symm)

/-! ### Ticks, then one step -/

theorem runEvents_append (es es' : List Event) (s : State) :
    runEvents (es ++ es') s = runEvents es' (runEvents es s) := by
  induction es generalizing s with
  | nil => rfl
  | cons e es ih => exact ih _

theorem runEvents_tickDelay (n : Nat) (s : State) :
    runEvents (List.replicate n .tickDelay) s = { s with delay := s.delay.ticks Config.delayGap n } := by
  induction n generalizing s with
  | zero => rfl
  | succ n ih => exact ih s.tickDelay

theorem runEvents_tickSound (n : Nat) (s : State) :
    runEvents (List.replicate n .tickSound) s = { s with sound := s.sound.ticks Config.soundGap n } := by
  induction n generalizing s with
  | zero => rfl
  | succ n ih => exact ih s.tickSound

theorem runEvents_ticks_step (n m : Nat) (s : State) :
    runEvents (List.replicate n .tickDelay ++ List.replicate m .tickSound ++ [.step]) s =
      (hostStep { s with
        delay := s.delay.ticks Config.delayGap n
        sound := s.sound.ticks Config.soundGap m }).1 := by
  rw [runEvents_append, runEvents_append, runEvents_tickDelay, runEvents_tickSound]
  rfl

/-- A step boundary leaves the value that some number of ticks leaves. -/
theorem Timer.elapse_value (gap : Nat → Nat) (t : Timer) : ∃ n, (t.elapse gap).value = (t.ticks gap n).value := by
  obtain ⟨n, h | ⟨-, -, h⟩⟩ := Timer.elapseFor_cases gap t.value.toNat t
  · exact ⟨n, by rw [Timer.elapse, h]⟩
  · exact ⟨n, by rw [Timer.elapse, h]⟩

/-- Only a clean machine answers a next state, and the engine leaves it after the boundary's ticks. -/
theorem step_next {s t : State} (h : step s = .next t) : s.fault = none ∧ s.elapse.engineStep = .next t := by
  cases hf : s.fault with
  | none => exact ⟨rfl, by rwa [step_of_clean hf] at h⟩
  | some r => simp [step_of_latched hf] at h

/-- A host's step from a state that differs from the ticked one only in the hidden part ends where the model's step
does, up to that part. -/
theorem hostStep_visible_of_step {s t u : State} (h : step s = .next t) (hu : s.elapse.visible = u.visible) :
    (hostStep u).1.visible = t.visible := by
  obtain ⟨hf, he⟩ := step_next h
  have hfu : u.fault = none := (congrArg State.fault hu).symm.trans hf
  obtain ⟨t₁, t', h₁, h', ht⟩ := State.engineStep_sameVisible hu
  obtain rfl : t₁ = t := Host.Outcome.next.inj (h₁.symm.trans he)
  rw [hostStep_of_clean hfu h']
  exact ht.symm

/-- Settles O58: the ticks that leave the values `elapse` leaves give a state that differs from it in the hidden part
only, and the engine does not read that part. -/
theorem stepIsTicksThenEngineStep : Obligations.StepIsTicksThenEngineStep := by
  intro s t h
  obtain ⟨n, hn⟩ := Timer.elapse_value Config.delayGap s.delay
  obtain ⟨m, hm⟩ := Timer.elapse_value Config.soundGap s.sound
  refine ⟨n, m, ?_⟩
  rw [runEvents_ticks_step]
  exact hostStep_visible_of_step h (by simp [State.visible, State.elapse, hn, hm])

end Sys2Proof.Machine
end

section
/-! SUPPORT. The invariant of the machine's state at creation and along steps, the hidden phase of a timer, and which
instruction can change which piece of state (spec 10_state.md R32, R39, R41, R47, R48, R50, R51, 20_memory.md R70). -/

namespace Sys2Proof.Machine

/-! ### The invariant -/

theorem State.reset_inv : State.reset.Inv := by decide

/-- The ticks of a step boundary change only the timers, and leave an idle timer idle. -/
theorem State.elapse_inv {s : State} (h : s.Inv) : s.elapse.Inv := by
  obtain ⟨hm, hf, hd, hs⟩ := h
  exact ⟨hm, hf, Timer.elapse_wf hd, Timer.elapse_wf hs⟩

/-- Settles O52: creation is the reset state with a font table written by `putBytes`. -/
theorem creationMeetsInvariant : Obligations.CreationMeetsInvariant := by
  intro p font
  obtain ⟨hm, hrest⟩ := State.reset_inv
  exact ⟨Memory.putBytes_wf hm 0 font.toList, hrest⟩

/-- Settles O53: the boundary's ticks keep the invariant, and so does the engine's step by what it can write. -/
theorem stepKeepsInvariant : Obligations.StepKeepsInvariant := by
  intro s t hi h
  obtain ⟨-, he⟩ := step_next h
  obtain ⟨u, hu, hw⟩ := s.elapse.engineStep_writes
  obtain rfl : u = t := Host.Outcome.next.inj (hu.symm.trans he)
  exact hw.keeps_inv (State.elapse_inv hi)

/-! ### The hidden phase -/

/-- Settles O57: each state's step agrees with that of the common visible state (`exec_visible`, instruction by
instruction). -/
theorem timerPhaseIsHidden : Obligations.TimerPhaseIsHidden :=
  fun _ _ h _ => State.engineStep_sameVisible h

/-! ### Which instruction can change which piece of state -/

/-- A write of one register leaves every other. -/
theorem State.reg_setReg_kept_or (s : State) (r q : Reg) (v : Byte) : (s.setReg r v).reg q = s.reg q ∨ q = r := by
  by_cases h : q = r
  · exact .inr h
  · exact .inl (by rw [State.reg_setReg, if_neg (Ne.symm h)])

/-- A shift leaves VF unless `shift_vf` makes it the flag or it is the shifted register itself (R178, R180). -/
theorem State.vf_shift_kept_or (s : State) (x : Reg) (v : Byte) (out : Bool) :
    ((s.setReg x v).setShiftFlag out).reg vf = s.reg vf ∨ s.params.shiftVf = .shiftedOutBit ∨ vf = x := by
  by_cases h : s.params.shiftVf = .shiftedOutBit
  · exact .inr (.inl h)
  · rw [State.reg_setShiftFlag, if_neg fun hc => h hc.1]
    exact (s.reg_setReg_kept_or x vf v).imp_right .inr

/-- Each piece of `t` is as in `s`, or `ins` is one of the instructions the spec lets write it. A field left to its
default is a piece that `ins` keeps. -/
structure State.WritesOf (ins : Instr) (s t : State) : Prop where
  flag : t.reg vf = s.reg vf ∨ writesFlag s.params ins ∨ hasDest ins vf := by simp [State.reg]
  index : t.i = s.i ∨ (∃ a, ins = .ldi a) ∨ ∃ x, ins = .addi x ∨ ins = .ldf x := by simp
  stack : t.stack = s.stack ∨ ∃ a, ins = .call a := by simp
  sp : t.sp = s.sp ∨ ins = .ret ∨ ∃ a, ins = .call a := by simp
  mem : t.mem = s.mem ∨ ∃ x, ins = .ldb x ∨ ins = .ldiv x := by simp
  fb : t.fb = s.fb ∨ ins = .cls ∨ ∃ x y n, ins = .drw x y n := by simp
  delay : t.delay = s.delay ∨ ∃ x, ins = .lddv x := by simp
  sound : t.sound = s.sound ∨ ∃ x, ins = .lds x := by simp
  draws : t.rngIndex = s.rngIndex ∨ ∃ x kk, ins = .rnd x kk := by simp

/-- A raise changes none of these pieces (60_exceptions.md R302). -/
theorem State.WritesOf.of_takeFault (ins : Instr) (s : State) (e : Error) (w : Option Word) :
    s.WritesOf ins (s.takeFault e w) := {}

/-- An instruction that may raise needs a look only where it completes. -/
theorem finish_writesOf {s : State} {ins : Instr} {r : Except Error State}
    (h : ∀ t, r = .ok t → State.WritesOf ins s t) : ∃ t, finish s ins r = .next t ∧ State.WritesOf ins s t := by
  cases r with
  | ok t => exact ⟨t, rfl, h t rfl⟩
  | error e => exact ⟨_, rfl, .of_takeFault ins s e _⟩

/-- The same of a result made from the answer of a checked operation. -/
theorem finish_map_writesOf {α : Type} {s : State} {ins : Instr} {r : Except Error α} {f : α → State}
    (h : ∀ a, r = .ok a → State.WritesOf ins s (f a)) :
    ∃ t, finish s ins (r.map f) = .next t ∧ State.WritesOf ins s t :=
  finish_writesOf fun t ht => by
    cases r with
    | ok a => exact Except.ok.inj ht ▸ h a rfl
    | error e => cases ht

theorem exec_writesOf (ins : Instr) (s : State) : ∃ t, exec ins s = .next t ∧ State.WritesOf ins s t := by
  cases ins with
  | jp addr | jpv0 addr | se x kk | sne x kk | sev x y | snev x y => exact ⟨_, rfl, {}⟩
  | sys addr | skp x | sknp x | ldk x => exact ⟨_, rfl, .of_takeFault _ s _ _⟩
  | ld x kk | add x kk | mov x y | or x y | and x y | xor x y | addv x y | ldd x =>
    exact ⟨_, rfl, { flag := (s.reg_setReg_kept_or x vf _).imp_right .inr }⟩
  | rnd x kk =>
    exact ⟨_, rfl, { flag := (s.reg_setReg_kept_or x vf _).imp_right .inr, draws := .inr ⟨x, kk, rfl⟩ }⟩
  | sub x y | subn x y => exact ⟨_, rfl, { flag := .inr (.inl trivial) }⟩
  | shr x y | shl x y => exact ⟨_, rfl, { flag := s.advance.vf_shift_kept_or x _ _ }⟩
  | ldi addr => exact ⟨_, rfl, { index := .inr (.inl ⟨addr, rfl⟩) }⟩
  | addi x => exact ⟨_, rfl, { index := .inr (.inr ⟨x, .inl rfl⟩) }⟩
  | ldf x => exact ⟨_, rfl, { index := .inr (.inr ⟨x, .inr rfl⟩) }⟩
  | cls => exact ⟨_, rfl, { fb := .inr (.inl rfl) }⟩
  | lddv x => exact ⟨_, rfl, { delay := .inr ⟨x, rfl⟩ }⟩
  | lds x => exact ⟨_, rfl, { sound := .inr ⟨x, rfl⟩ }⟩
  | ret =>
    refine finish_writesOf fun t ht => ?_
    obtain ⟨-, -, -, hp⟩ := State.popToPc_ok ht
    rw [hp]
    exact { sp := .inr (.inl rfl) }
  | call addr =>
    refine finish_map_writesOf fun u hu => ?_
    obtain ⟨-, -, -, hp⟩ := State.push_ok hu
    rw [hp]
    exact { stack := .inr ⟨addr, rfl⟩, sp := .inr (.inr ⟨addr, rfl⟩) }
  | drw x y n =>
    exact finish_map_writesOf fun _ _ => { flag := .inr (.inl trivial), fb := .inr (.inr ⟨x, y, n, rfl⟩) }
  | ldb x => exact finish_map_writesOf fun _ _ => { mem := .inr ⟨x, .inl rfl⟩ }
  | ldiv x => exact finish_map_writesOf fun _ _ => { mem := .inr ⟨x, .inr rfl⟩ }
  | ldvi x => exact finish_map_writesOf fun _ _ => { flag := .inr (.inr trivial) }

/-- No instruction changes W or H: a clear and a blit keep the display's size (R231, R232). -/
theorem State.Writes.keeps_size {s t : State} (h : s.Writes t) :
    t.fb.width = s.fb.width ∧ t.fb.height = s.fb.height := by
  obtain he | he | ⟨sx, sy, bs, he⟩ := h.fb <;> rw [he]
  · exact ⟨rfl, rfl⟩
  · exact ⟨rfl, rfl⟩
  · obtain ⟨hw, hh, -⟩ := s.fb.drawBytesAt_shape sx sy bs
    exact ⟨hw, hh⟩

/-- Settles O40: clause by clause from what each instruction writes; the size and the parameters from what any
instruction can write. -/
theorem whichInstructionsWriteWhat : Obligations.WhichInstructionsWriteWhat := by
  intro ins s t h
  obtain ⟨u, hu, hw⟩ := exec_writesOf ins s
  obtain rfl : u = t := Host.Outcome.next.inj (hu.symm.trans h)
  obtain ⟨v, hv, hs⟩ := exec_writes ins s
  obtain rfl : v = u := Host.Outcome.next.inj (hv.symm.trans h)
  obtain ⟨hwidth, hheight⟩ := hs.keeps_size
  exact ⟨hw.flag.resolve_left, hw.index.resolve_left, hw.stack.resolve_left, hw.sp.resolve_left,
    hw.mem.resolve_left, hw.fb.resolve_left, hw.delay.resolve_left, hw.sound.resolve_left, hw.draws.resolve_left,
    hwidth, hheight, hs.params⟩

end Sys2Proof.Machine
end

section
/-! SUPPORT. Memory seen from outside an instruction: what the checked ranges answer, that a stored word is the word
fetched, that the host's reads change nothing, and that no run changes the font table under `font_write = Fault`
(spec 20_memory.md R72 to R76, 60_exceptions.md R331, 70_reset_and_hazards.md R357). -/

namespace Sys2Proof.Machine

/-! ### No run writes the font table -/

/-- A write leaves every byte below its start. -/
theorem Memory.byte_putBytes_of_lt {m : Memory} (hm : m.wf) {start a : Nat} (ha : a < start) (bs : List Byte) :
    (m.putBytes start bs).byte a = m.byte a := by
  induction bs generalizing m start with
  | nil => rfl
  | cons b bs ih =>
    rw [Memory.putBytes, ih (Memory.put_wf hm start b) (by omega), Memory.byte_put hm, if_neg (by omega)]

/-- A write of memory under `font_write = Fault` starts past the font table or writes no byte (R76). -/
theorem Memory.byte_setRange_of_lt_fontLen {m m' : Memory} (hm : m.wf) {start : Nat} {bs : List Byte}
    (h : m.setRange .fault start bs = .ok m') {a : Nat} (ha : a < Config.fontLen) : m'.byte a = m.byte a := by
  obtain ⟨-, hf, rfl⟩ := Memory.setRange_ok h
  obtain hs | rfl : Config.fontLen ≤ start ∨ bs = [] := by
    simpa [meetsFont, or_iff_not_imp_left] using hf rfl
  · exact Memory.byte_putBytes_of_lt hm (by omega) bs
  · rfl

/-- The font table of `t` is that of `s`. -/
def fontKept (s t : State) : Prop := ∀ a, a < Config.fontLen → t.mem.byte a = s.mem.byte a

theorem fontKept.trans {s t u : State} (h : fontKept s t) (h' : fontKept t u) : fontKept s u :=
  fun a ha => (h' a ha).trans (h a ha)

theorem fontKept_of_mem {s t : State} (h : t.mem = s.mem) : fontKept s t := fun a _ => by rw [h]

theorem State.Writes.keeps_font {s t : State} (h : s.Writes t) (hm : s.mem.wf) (hf : s.params.fontWrite = .fault) :
    fontKept s t := by
  obtain he | ⟨start, bs, he⟩ := h.mem
  · exact fontKept_of_mem he
  · rw [hf] at he
    exact fun a ha => Memory.byte_setRange_of_lt_fontLen hm he ha

/-- The clear of a reset starts past the font table (R77). -/
theorem hostReset_keeps_font (s : State) : fontKept s (hostReset s) := fun a ha => by
  have hp : a < Config.progBase := Nat.lt_trans ha (by decide)
  exact (s.mem.byte_clear a).trans (if_pos hp)

/-- No action of an agent changes the font table: a step by what it can write, a reset and a load because they write
from 0x200 on (R353); the others do not touch memory. -/
theorem act_keeps_font {s : State} (e : Event) (hm : s.mem.wf) (hf : s.params.fontWrite = .fault) :
    fontKept s (act e s).1 := by
  cases e with
  | step => exact (hostStep_writes s).keeps_font hm hf
  | tickDelay | tickSound | resize w h | pollFramebuffer | pollDelay | pollSound => exact fontKept_of_mem rfl
  | readMemory start len => exact fontKept_of_mem (by rw [act_readMemory_fst])
  | reset => exact hostReset_keeps_font s
  | load bytes =>
    obtain h | h := act_load_fst s bytes <;> rw [h]
    · exact fontKept_of_mem rfl
    · refine (hostReset_keeps_font s).trans fun a ha => ?_
      exact Memory.byte_putBytes_of_lt (Memory.clear_wf hm) (Nat.lt_trans ha (by decide)) bytes

/-- What holds at the start and is kept by every action holds of every state a run reaches. -/
theorem Reaches.induction {P : State → Prop} {s t : State} (h : Reaches s t) (h0 : P s)
    (hact : ∀ u e, P u → P (act e u).1) : P t := by
  obtain ⟨es, rfl⟩ := h
  induction es generalizing s with
  | nil => exact h0
  | cons e es ih => exact ih (hact s e h0)

/-- Settles O56: the invariant, the parameters and the font table together are kept by every action. -/
theorem fontTableIsImmutable : Obligations.FontTableIsImmutable := by
  intro s t hi hf hr
  have h : t.Inv ∧ t.params.fontWrite = .fault ∧ fontKept s t := by
    refine hr.induction (P := fun u => u.Inv ∧ u.params.fontWrite = .fault ∧ fontKept s u)
      ⟨hi, hf, fontKept_of_mem rfl⟩ ?_
    rintro u e ⟨hiu, hfu, hk⟩
    obtain ⟨hie, hpe⟩ := everyActionKeepsInvariant u e hiu
    obtain ⟨hm, -⟩ := hiu
    exact ⟨hie, by rw [hpe, hfu], hk.trans (act_keeps_font e hm hfu)⟩
  obtain ⟨-, -, hk⟩ := h
  exact hk

/-! ### What the checked ranges answer -/

theorem Memory.getRange_eq_outOfBounds (m : Memory) {start len : Nat} (h : Config.memSize < start + len) :
    m.getRange start len = .error (.outOfBounds start len) := if_neg (by omega)

/-- A range inside memory is read in order (R72). -/
theorem Memory.getRange_bytes (m : Memory) {start len : Nat} (h : start + len ≤ Config.memSize) :
    ∃ bs, m.getRange start len = .ok bs ∧ bs.length = len ∧ ∀ k, k < len → bs.getD k 0 = m.byte (start + k) :=
  ⟨_, m.getRange_eq h, by simp, fun k hk => by simp [hk]⟩

theorem Memory.setRange_eq_exceedsCapacity (m : Memory) (fw : FontWrite) {start : Nat} {bs : List Byte}
    (h : Config.memSize < start + bs.length) :
    m.setRange fw start bs = .error (.exceedsCapacity start bs.length) := if_pos h

theorem Memory.setRange_eq_readOnly (m : Memory) {start : Nat} {bs : List Byte}
    (h : start + bs.length ≤ Config.memSize) (hs : start < Config.fontLen) (hb : bs ≠ []) :
    m.setRange .fault start bs = .error (.readOnly start bs.length) := by
  have hf : meetsFont start bs.length = true := by simpa [meetsFont, List.length_pos_iff] using ⟨hs, hb⟩
  rw [Memory.setRange, if_neg (by omega), if_pos ⟨rfl, hf⟩]

theorem Memory.setRange_eq_putBytes (m : Memory) {fw : FontWrite} {start : Nat} {bs : List Byte}
    (h : start + bs.length ≤ Config.memSize) (hf : fw = .allow ∨ Config.fontLen ≤ start ∨ bs = []) :
    m.setRange fw start bs = .ok (m.putBytes start bs) := by
  have hn : ¬ (fw = .fault ∧ meetsFont start bs.length) := by
    rintro ⟨rfl, hm⟩
    simp only [meetsFont, decide_eq_true_eq] at hm
    obtain hf | hf | rfl := hf
    · cases hf
    · omega
    · simp at hm
  rw [Memory.setRange, if_neg (by omega), if_neg hn]

/-- A write inside memory puts its bytes in order (R73). -/
theorem Memory.byte_putBytes_inside {m : Memory} (hm : m.wf) {start : Nat} {bs : List Byte}
    (h : start + bs.length ≤ Config.memSize) {k : Nat} (hk : k < bs.length) :
    (m.putBytes start bs).byte (start + k) = bs.getD k 0 := by
  rw [Memory.byte_putBytes hm start bs h, if_pos (by omega), Nat.add_sub_cancel_left]

theorem Memory.byte_putBytes_outside {m : Memory} (hm : m.wf) {start : Nat} {bs : List Byte}
    (h : start + bs.length ≤ Config.memSize) {a : Nat} (ha : a < start ∨ start + bs.length ≤ a) :
    (m.putBytes start bs).byte a = m.byte a := by
  rw [Memory.byte_putBytes hm start bs h, if_neg (by omega)]

/-- Settles O38: one answer of `getRange` or `setRange` per clause, and the bytes of a write by `byte_putBytes`. -/
theorem memoryRangesAreChecked : Obligations.MemoryRangesAreChecked := by
  intro m fw start len data hm
  refine ⟨m.getRange_eq_outOfBounds, m.getRange_bytes, m.setRange_eq_exceedsCapacity fw, ?_, ?_, fun v => rfl⟩
  · rintro h rfl hs hd
    exact m.setRange_eq_readOnly h hs hd
  · intro h hf
    exact ⟨_, m.setRange_eq_putBytes h hf, Memory.putBytes_wf hm start data,
      fun k => Memory.byte_putBytes_inside hm h, fun a => Memory.byte_putBytes_outside hm h⟩

/-! ### A stored word is the word fetched -/

/-- An instruction that leaves no fault completed with its result. -/
theorem finish_clean {s t : State} {ins : Instr} {r : Except Error State} (h : finish s ins r = .next t)
    (ht : t.fault = none) : r = .ok t := by
  obtain hr | ⟨e, -, rfl⟩ := finish_next h
  · exact hr
  · simp [State.takeFault] at ht

/-- Where `pc` stands inside a store's bytes, the fetch gives two of them as a word (R74). -/
theorem State.fetch_of_store {s t : State} (hm : s.mem.wf) {start : Nat} {bs : List Byte}
    (h : s.store start bs = .ok t) {k : Nat} (hk : k + 1 < bs.length) (hpc : t.pc.toNat = start + k) :
    t.fetch = .ok (wordOfBytes (bs.getD k 0) (bs.getD (k + 1) 0)) := by
  obtain ⟨hb, -, ht⟩ := State.store_ok h
  have hmem : t.mem = s.mem.putBytes start bs := by rw [ht]
  rw [State.fetch_eq t (by omega), hpc, hmem, Nat.add_assoc, Memory.byte_putBytes_inside hm hb (by omega),
    Memory.byte_putBytes_inside hm hb hk]

theorem State.asBytes_getD_of_lt (s : State) {k : Nat} (hk : k < 16) : s.asBytes.getD k 0 = s.V[k] :=
  s.asBytes_getD ⟨k, hk⟩

/-- Settles O39: each store is at `i`, and its two bytes at the next `pc` are the word fetched. -/
theorem storedWordsAreFetched : Obligations.StoredWordsAreFetched := by
  intro x s t hm _ ht
  have hma : s.advance.mem.wf := hm
  constructor
  · intro h k hk hpc
    have hst : s.advance.store s.i.toNat s.asBytes = .ok t := finish_clean h ht
    rw [State.fetch_of_store hma hst (by simpa using hk) hpc, s.asBytes_getD_of_lt (by omega),
      s.asBytes_getD_of_lt hk]
  · intro h
    have hst : s.advance.store s.i.toNat (bcdDigits (s.reg x)) = .ok t := finish_clean h ht
    constructor
    · intro hpc
      refine ⟨_, State.fetch_of_store (k := 0) hma hst (by simp [bcdDigits]) (by rw [hpc]; rfl), ?_⟩
      simp [wordOfBytes_toNat, bcdDigits]
    · intro hpc
      refine ⟨_, State.fetch_of_store (k := 1) hma hst (by simp [bcdDigits]) hpc, ?_⟩
      simp [wordOfBytes_toNat, bcdDigits]

/-! ### The host's reads -/

/-- A memory read returns what `getRange` answers; its error goes to the host and is not latched (R357). -/
theorem act_readMemory_of_ok {s : State} {start len : Nat} {bs : List Byte} (h : s.mem.getRange start len = .ok bs) :
    act (.readMemory start len) s = (s, .bytes bs) := by simp [act, h]

theorem act_readMemory_of_error {s : State} {start len : Nat} {e : Error} (h : s.mem.getRange start len = .error e) :
    act (.readMemory start len) s = (s, .error e) := by simp [act, h]

/-- Settles O60: polls by definition, memory reads by the answers of `getRange`. -/
theorem hostReadsChangeNothing : Obligations.HostReadsChangeNothing := by
  intro s start len
  refine ⟨rfl, rfl, rfl, fun h => act_readMemory_of_error (s.mem.getRange_eq_outOfBounds h), fun h => ?_⟩
  obtain ⟨bs, hr, hlen, hbytes⟩ := s.mem.getRange_bytes h
  exact ⟨bs, act_readMemory_of_ok hr, hlen, hbytes⟩

end Sys2Proof.Machine
end

section
/-! SUPPORT. The decoder against the encoder and the opcode table: what each answer of the decoder says about the word,
and what a fetched word makes the engine do (spec 30_encoding.md R103, R104, R106, section 4). -/

namespace Sys2Proof

/-! ### A word from its fields (R103) -/

theorem formA_of_fields {w : Word} {f : Nibble} (hf : (fieldN0 w).toNat = f.toNat) : formA f (fieldAddr w) = w := by
  rw [fieldN0_toNat] at hf
  apply BitVec.eq_of_toNat_eq
  rw [formA_toNat, fieldAddr_toNat]
  omega

theorem formXK_of_fields {w : Word} {f : Nibble} {kk : Byte} (hf : (fieldN0 w).toNat = f.toNat)
    (hk : (fieldKK w).toNat = kk.toNat) : formXK f (fieldX w) kk = w := by
  rw [fieldN0_toNat] at hf
  rw [fieldKK_toNat] at hk
  apply BitVec.eq_of_toNat_eq
  rw [formXK_toNat, fieldX_val]
  omega

theorem formXYN_of_fields {w : Word} {f n : Nibble} (hf : (fieldN0 w).toNat = f.toNat)
    (hn : (fieldN w).toNat = n.toNat) : formXYN f (fieldX w) (fieldY w) n = w := by
  rw [fieldN0_toNat] at hf
  rw [fieldN_toNat] at hn
  apply BitVec.eq_of_toNat_eq
  rw [formXYN_toNat, fieldX_val, fieldY_val]
  omega

theorem formA_inj {f : Nibble} {a b : Addr} : formA f a = formA f b ↔ a = b :=
  ⟨fun h => by rw [← fieldAddr_formA f a, h, fieldAddr_formA], congrArg _⟩

/-- SYS is well-formed where its word is neither that of CLS nor that of RET (R106 row 3). -/
theorem sys_wf_iff (a : Addr) :
    (Instr.sys a).wf = true ↔ formA 0x0 a ≠ encode .cls ∧ formA 0x0 a ≠ encode .ret := by
  have hcls : encode .cls = formA 0x0 0x0E0 := rfl
  have hret : encode .ret = formA 0x0 0x0EE := rfl
  rw [hcls, hret, Ne, Ne, formA_inj, formA_inj]
  simp [Instr.wf]

/-! ### Decoding an encoding -/

/-- Family 0 under `sys_mode = SysFault` (R104): what is neither CLS nor RET is SYS. -/
theorem decode_sysFault_of_ne {w : Word} (hf : (fieldN0 w).toNat = 0x0) (hcls : w ≠ encode .cls)
    (hret : w ≠ encode .ret) : decode .sysFault w = .ok (.sys (fieldAddr w)) := by
  have h0 : decode .sysFault w = decode0 .sysFault w := by simp [decode, hf]
  rw [h0]
  exact (if_neg hcls).trans (if_neg hret)

/-- Settles O7: the decoder reads back the fields each format wrote, family by family. -/
theorem decodeOfEncode : Obligations.DecodeOfEncode := by
  intro m ins hwf hm
  cases ins with
  | cls | ret => rfl
  | sys a =>
    obtain rfl := hm ⟨a, rfl⟩
    obtain ⟨hcls, hret⟩ := (sys_wf_iff a).mp hwf
    rw [encode, decode_sysFault_of_ne (congrArg BitVec.toNat (fieldN0_formA 0x0 a)) hcls hret, fieldAddr_formA]
  | jp a | call a | ldi a | jpv0 a | se x kk | sne x kk | ld x kk | add x kk | rnd x kk | drw x y n
  | sev x y | snev x y => simp [encode, decode]
  | mov x y | or x y | and x y | xor x y | addv x y | sub x y | shr x y | subn x y | shl x y =>
    simp [encode, decode, decode8]
  | skp x | sknp x => simp [encode, decode, decodeE]
  | ldd x | ldk x | lddv x | lds x | addi x | ldf x | ldb x | ldiv x | ldvi x => simp [encode, decode, decodeF]

/-! ### What each answer of the decoder says about the word -/

/-- The illegal words of 30_encoding.md section 4, by the word's fields. -/
def illegalWord (m : SysMode) (w : Word) : Prop :=
  (((fieldN0 w).toNat = 5 ∨ (fieldN0 w).toNat = 9) ∧ (fieldN w).toNat ≠ 0) ∨
  ((fieldN0 w).toNat = 8 ∧ (fieldN w).toNat ∈ [0x8, 0x9, 0xA, 0xB, 0xC, 0xD, 0xF]) ∨
  ((fieldN0 w).toNat = 0xE ∧ (fieldKK w).toNat ∉ [0x9E, 0xA1]) ∨
  ((fieldN0 w).toNat = 0xF ∧ (fieldKK w).toNat ∉ [0x07, 0x0A, 0x15, 0x18, 0x1E, 0x29, 0x33, 0x55, 0x65]) ∨
  (m = .sysBadCode ∧ (fieldN0 w).toNat = 0 ∧ w.toNat ≠ 0x00E0 ∧ w.toNat ≠ 0x00EE)

/-- `r` is a right answer for `w`, whose being illegal is `bad`: a well-formed instruction of that word when it is
legal, `BadCode` of the word itself when it is not (R104). -/
def answersWord (w : Word) (bad : Prop) : Except DecodeError Instr → Prop
  | .ok ins => encode ins = w ∧ ins.wf = true ∧ ¬ bad
  | .error e => e = .badCode w ∧ bad

theorem decode0_answersWord (m : SysMode) {w : Word} (hf : (fieldN0 w).toNat = 0x0) :
    answersWord w (illegalWord m w) (decode0 m w) := by
  unfold decode0
  split_ifs with hcls hret
  · subst w; exact ⟨rfl, rfl, by simp [illegalWord, fieldN0]⟩
  · subst w; exact ⟨rfl, rfl, by simp [illegalWord, fieldN0]⟩
  cases m with
  | sysFault =>
    have hw : formA 0x0 (fieldAddr w) = w := formA_of_fields hf
    exact ⟨hw, (sys_wf_iff _).mpr (by rw [hw]; exact ⟨hcls, hret⟩), by simp [illegalWord, hf]⟩
  | sysBadCode =>
    have h1 : w.toNat ≠ 0x00E0 := fun h => hcls (BitVec.eq_of_toNat_eq h)
    have h2 : w.toNat ≠ 0x00EE := fun h => hret (BitVec.eq_of_toNat_eq h)
    exact ⟨rfl, by simp [illegalWord, hf, h1, h2]⟩

theorem decode8_answersWord (m : SysMode) {w : Word} (hf : (fieldN0 w).toNat = 0x8) :
    answersWord w (illegalWord m w) (decode8 w) := by
  unfold decode8
  split
  case h_10 =>
    have hlt := (fieldN w).isLt
    simp only [imp_false] at *
    exact ⟨rfl, .inr (.inl ⟨hf, by simp; omega⟩)⟩
  all_goals
    rename_i hn
    exact ⟨formXYN_of_fields hf hn, rfl, by simp [illegalWord, hf, hn]⟩

theorem decodeE_answersWord (m : SysMode) {w : Word} (hf : (fieldN0 w).toNat = 0xE) :
    answersWord w (illegalWord m w) (decodeE w) := by
  unfold decodeE
  split
  case h_3 => exact ⟨rfl, by simp_all [illegalWord]⟩
  all_goals
    rename_i hk
    exact ⟨formXK_of_fields hf hk, rfl, by simp [illegalWord, hf, hk]⟩

theorem decodeF_answersWord (m : SysMode) {w : Word} (hf : (fieldN0 w).toNat = 0xF) :
    answersWord w (illegalWord m w) (decodeF w) := by
  unfold decodeF
  split
  case h_10 => exact ⟨rfl, by simp_all [illegalWord]⟩
  all_goals
    rename_i hk
    exact ⟨formXK_of_fields hf hk, rfl, by simp [illegalWord, hf, hk]⟩

/-- Every answer of the decoder is right for its word. The cases `h_1` to `h_16` are the families 0 to F. -/
theorem decode_answersWord (m : SysMode) (w : Word) : answersWord w (illegalWord m w) (decode m w) := by
  unfold decode
  split
  case h_1 hf => exact decode0_answersWord m hf
  case h_2 hf | h_3 hf | h_11 hf | h_12 hf => exact ⟨formA_of_fields hf, rfl, by simp [illegalWord, hf]⟩
  case h_4 hf | h_5 hf | h_7 hf | h_8 hf | h_13 hf =>
    exact ⟨formXK_of_fields hf rfl, rfl, by simp [illegalWord, hf]⟩
  case h_14 hf => exact ⟨formXYN_of_fields hf rfl, rfl, by simp [illegalWord, hf]⟩
  case h_6 hf | h_10 hf =>
    split
    case isTrue hn => exact ⟨formXYN_of_fields hf (congrArg BitVec.toNat hn), rfl, by simp [illegalWord, hf, hn]⟩
    case isFalse hn => exact ⟨rfl, by simpa [illegalWord, hf, BitVec.toNat_eq] using hn⟩
  case h_9 hf => exact decode8_answersWord m hf
  case h_15 hf => exact decodeE_answersWord m hf
  case h_16 =>
    have hlt := (fieldN0 w).isLt
    simp only [imp_false] at *
    exact decodeF_answersWord m (by omega)

theorem decode_ok {m : SysMode} {w : Word} {ins : Instr} (h : decode m w = .ok ins) :
    encode ins = w ∧ ins.wf = true ∧ ¬ illegalWord m w := by
  simpa [h, answersWord] using decode_answersWord m w

theorem decode_error {m : SysMode} {w : Word} {e : DecodeError} (h : decode m w = .error e) :
    e = .badCode w ∧ illegalWord m w := by
  simpa [h, answersWord] using decode_answersWord m w

theorem decode_eq_badCode_iff (m : SysMode) (w : Word) : decode m w = .error (.badCode w) ↔ illegalWord m w := by
  cases h : decode m w with
  | ok ins =>
    obtain ⟨-, -, hlegal⟩ := decode_ok h
    simpa using hlegal
  | error e =>
    obtain ⟨rfl, hw⟩ := decode_error h
    simpa using hw

/-- Settles O8: what the decoder's answer says about the word. -/
theorem encodeOfDecode : Obligations.EncodeOfDecode := by
  intro m w ins h
  obtain ⟨hw, hwf, -⟩ := decode_ok h
  exact ⟨hw, hwf⟩

/-! ### The opcode table -/

/-- Every well-formed instruction's word lies in the row of its own mnemonic. -/
theorem encode_covered : ∀ ins : Instr, Laws.EncodesRow.Statement ins
  | .cls => Laws.EncodesRow.cls
  | .ret => Laws.EncodesRow.ret
  | .sys a => Laws.EncodesRow.sys a
  | .jp a => Laws.EncodesRow.jp a
  | .call a => Laws.EncodesRow.call a
  | .se x kk => Laws.EncodesRow.se x kk
  | .sne x kk => Laws.EncodesRow.sne x kk
  | .sev x y => Laws.EncodesRow.sev x y
  | .snev x y => Laws.EncodesRow.snev x y
  | .ld x kk => Laws.EncodesRow.ld x kk
  | .add x kk => Laws.EncodesRow.add x kk
  | .mov x y => Laws.EncodesRow.mov x y
  | .or x y => Laws.EncodesRow.or x y
  | .and x y => Laws.EncodesRow.and x y
  | .xor x y => Laws.EncodesRow.xor x y
  | .addv x y => Laws.EncodesRow.addv x y
  | .sub x y => Laws.EncodesRow.sub x y
  | .shr x y => Laws.EncodesRow.shr x y
  | .subn x y => Laws.EncodesRow.subn x y
  | .shl x y => Laws.EncodesRow.shl x y
  | .ldi a => Laws.EncodesRow.ldi a
  | .jpv0 a => Laws.EncodesRow.jpv0 a
  | .rnd x kk => Laws.EncodesRow.rnd x kk
  | .drw x y n => Laws.EncodesRow.drw x y n
  | .skp x => Laws.EncodesRow.skp x
  | .sknp x => Laws.EncodesRow.sknp x
  | .ldd x => Laws.EncodesRow.ldd x
  | .ldk x => Laws.EncodesRow.ldk x
  | .lddv x => Laws.EncodesRow.lddv x
  | .lds x => Laws.EncodesRow.lds x
  | .addi x => Laws.EncodesRow.addi x
  | .ldf x => Laws.EncodesRow.ldf x
  | .ldb x => Laws.EncodesRow.ldb x
  | .ldiv x => Laws.EncodesRow.ldiv x
  | .ldvi x => Laws.EncodesRow.ldvi x

theorem OpcodeRow.covers_iff {row : OpcodeRow} {w : Word} :
    row.covers w = true ↔ w &&& row.mask = row.value ∧ w ∉ row.exclude := by
  simp [OpcodeRow.covers]

/-! A covered word is written in its row's format: the row's match holds the family and, under the masks 0xF00F and
0xF0FF, the sub-opcode. -/

theorem fieldN0_of_and {w : Word} {f : Nibble} (h : w &&& 0xF000 = formA f 0) : (fieldN0 w).toNat = f.toNat := by
  have hw : formA (fieldN0 w) 0 = formA f 0 := by
    rw [← h, ← formA_and_F000 _ (fieldAddr w), formA_of_fields rfl]
  exact congrArg BitVec.toNat (by simpa using congrArg fieldN0 hw)

theorem formXK_of_and {w : Word} {f : Nibble} {kk : Byte} (h : w &&& 0xF0FF = formXK f 0 kk) :
    formXK f (fieldX w) kk = w := by
  have hw : formXK (fieldN0 w) 0 (fieldKK w) = formXK f 0 kk := by
    rw [← h, ← formXK_and_F0FF _ (fieldX w), formXK_of_fields rfl rfl]
  refine formXK_of_fields (congrArg BitVec.toNat ?_) (congrArg BitVec.toNat ?_)
  · simpa using congrArg fieldN0 hw
  · simpa using congrArg fieldKK hw

theorem formXYN_of_and {w : Word} {f n : Nibble} (h : w &&& 0xF00F = formXYN f 0 0 n) :
    formXYN f (fieldX w) (fieldY w) n = w := by
  have hw : formXYN (fieldN0 w) 0 0 (fieldN w) = formXYN f 0 0 n := by
    rw [← h, ← formXYN_and_F00F _ (fieldX w) (fieldY w), formXYN_of_fields rfl rfl]
  refine formXYN_of_fields (congrArg BitVec.toNat ?_) (congrArg BitVec.toNat ?_)
  · simpa using congrArg fieldN0 hw
  · simpa using congrArg fieldN hw

theorem formA_of_and {w : Word} {f : Nibble} (h : w &&& 0xF000 = formA f 0) : formA f (fieldAddr w) = w :=
  formA_of_fields (fieldN0_of_and h)

/-- The row of SYS: its exclusions are what SYS's well-formedness asks. -/
theorem exists_sys_of_and {w : Word} (h : w &&& 0xF000 = 0x0000) (hx : w ∉ [encode .cls, encode .ret]) :
    ∃ ins : Instr, ins.mnemonic = "SYS" ∧ ins.wf = true ∧ encode ins = w := by
  have hw : formA 0x0 (fieldAddr w) = w := formA_of_and h
  exact ⟨.sys (fieldAddr w), rfl, (sys_wf_iff _).mpr (by rw [hw]; simpa using hx), hw⟩

/-- Row by row, the instruction read from a covered word's fields is well-formed, has the row's mnemonic and is that
word. -/
theorem exists_encode_of_covers (w : Word) : ∀ row ∈ opcodeTable, row.covers w = true →
    ∃ ins : Instr, ins.mnemonic = row.mnemonic ∧ ins.wf = true ∧ encode ins = w := by
  simp only [opcodeTable, List.forall_mem_append, List.forall_mem_cons, List.not_mem_nil, IsEmpty.forall_iff,
    implies_true, and_true, OpcodeRow.covers_iff]
  exact ⟨⟨⟨⟨
    fun ⟨h, _⟩ => ⟨.cls, rfl, rfl, h.symm.trans BitVec.and_allOnes⟩,
    fun ⟨h, _⟩ => ⟨.ret, rfl, rfl, h.symm.trans BitVec.and_allOnes⟩,
    fun ⟨h, hx⟩ => exists_sys_of_and h hx,
    fun ⟨h, _⟩ => ⟨.jp (fieldAddr w), rfl, rfl, formA_of_and h⟩,
    fun ⟨h, _⟩ => ⟨.call (fieldAddr w), rfl, rfl, formA_of_and h⟩,
    fun ⟨h, _⟩ => ⟨.se (fieldX w) (fieldKK w), rfl, rfl, formXK_of_fields (fieldN0_of_and h) rfl⟩,
    fun ⟨h, _⟩ => ⟨.sne (fieldX w) (fieldKK w), rfl, rfl, formXK_of_fields (fieldN0_of_and h) rfl⟩,
    fun ⟨h, _⟩ => ⟨.sev (fieldX w) (fieldY w), rfl, rfl, formXYN_of_and h⟩,
    fun ⟨h, _⟩ => ⟨.snev (fieldX w) (fieldY w), rfl, rfl, formXYN_of_and h⟩⟩,
    fun ⟨h, _⟩ => ⟨.ld (fieldX w) (fieldKK w), rfl, rfl, formXK_of_fields (fieldN0_of_and h) rfl⟩,
    fun ⟨h, _⟩ => ⟨.add (fieldX w) (fieldKK w), rfl, rfl, formXK_of_fields (fieldN0_of_and h) rfl⟩,
    fun ⟨h, _⟩ => ⟨.mov (fieldX w) (fieldY w), rfl, rfl, formXYN_of_and h⟩,
    fun ⟨h, _⟩ => ⟨.or (fieldX w) (fieldY w), rfl, rfl, formXYN_of_and h⟩,
    fun ⟨h, _⟩ => ⟨.and (fieldX w) (fieldY w), rfl, rfl, formXYN_of_and h⟩,
    fun ⟨h, _⟩ => ⟨.xor (fieldX w) (fieldY w), rfl, rfl, formXYN_of_and h⟩,
    fun ⟨h, _⟩ => ⟨.addv (fieldX w) (fieldY w), rfl, rfl, formXYN_of_and h⟩,
    fun ⟨h, _⟩ => ⟨.sub (fieldX w) (fieldY w), rfl, rfl, formXYN_of_and h⟩,
    fun ⟨h, _⟩ => ⟨.shr (fieldX w) (fieldY w), rfl, rfl, formXYN_of_and h⟩,
    fun ⟨h, _⟩ => ⟨.subn (fieldX w) (fieldY w), rfl, rfl, formXYN_of_and h⟩,
    fun ⟨h, _⟩ => ⟨.shl (fieldX w) (fieldY w), rfl, rfl, formXYN_of_and h⟩⟩,
    fun ⟨h, _⟩ => ⟨.ldi (fieldAddr w), rfl, rfl, formA_of_and h⟩,
    fun ⟨h, _⟩ => ⟨.jpv0 (fieldAddr w), rfl, rfl, formA_of_and h⟩,
    fun ⟨h, _⟩ => ⟨.rnd (fieldX w) (fieldKK w), rfl, rfl, formXK_of_fields (fieldN0_of_and h) rfl⟩,
    fun ⟨h, _⟩ => ⟨.drw (fieldX w) (fieldY w) (fieldN w), rfl, rfl, formXYN_of_fields (fieldN0_of_and h) rfl⟩,
    fun ⟨h, _⟩ => ⟨.skp (fieldX w), rfl, rfl, formXK_of_and h⟩,
    fun ⟨h, _⟩ => ⟨.sknp (fieldX w), rfl, rfl, formXK_of_and h⟩⟩,
    fun ⟨h, _⟩ => ⟨.ldd (fieldX w), rfl, rfl, formXK_of_and h⟩,
    fun ⟨h, _⟩ => ⟨.ldk (fieldX w), rfl, rfl, formXK_of_and h⟩,
    fun ⟨h, _⟩ => ⟨.lddv (fieldX w), rfl, rfl, formXK_of_and h⟩,
    fun ⟨h, _⟩ => ⟨.lds (fieldX w), rfl, rfl, formXK_of_and h⟩,
    fun ⟨h, _⟩ => ⟨.addi (fieldX w), rfl, rfl, formXK_of_and h⟩,
    fun ⟨h, _⟩ => ⟨.ldf (fieldX w), rfl, rfl, formXK_of_and h⟩,
    fun ⟨h, _⟩ => ⟨.ldb (fieldX w), rfl, rfl, formXK_of_and h⟩,
    fun ⟨h, _⟩ => ⟨.ldiv (fieldX w), rfl, rfl, formXK_of_and h⟩,
    fun ⟨h, _⟩ => ⟨.ldvi (fieldX w), rfl, rfl, formXK_of_and h⟩⟩

theorem Instr.eq_sys_of_mnemonic {ins : Instr} (h : ins.mnemonic = "SYS") : ∃ a, ins = .sys a := by
  cases ins with
  | sys a => exact ⟨a, rfl⟩
  | _ => simp [Instr.mnemonic] at h

/-- SYS decodes only under `sys_mode = SysFault` (R9). -/
theorem sysFault_of_decode_sys {m : SysMode} {w : Word} {a : Addr} (h : decode m w = .ok (.sys a)) :
    m = .sysFault := by
  obtain ⟨rfl, hwf, hlegal⟩ := decode_ok h
  obtain ⟨hcls, hret⟩ := (sys_wf_iff a).mp hwf
  cases m with
  | sysFault => rfl
  | sysBadCode =>
    refine absurd ?_ hlegal
    have h0 : (fieldN0 (formA 0x0 a)).toNat = 0 := by simp
    have h1 : (formA 0x0 a).toNat ≠ 0x00E0 := fun h => hcls (BitVec.eq_of_toNat_eq h)
    have h2 : (formA 0x0 a).toNat ≠ 0x00EE := fun h => hret (BitVec.eq_of_toNat_eq h)
    exact .inr (.inr (.inr (.inr ⟨rfl, h0, h1, h2⟩)))

/-- Settles O9: a word that decodes is its instruction's encoding, which lies in that mnemonic's row; a covered word is
the encoding of an instruction of the row's mnemonic, which decodes back. -/
theorem decodeFollowsOpcodeTable : Obligations.DecodeFollowsOpcodeTable := by
  intro m w mn
  constructor
  · rintro ⟨ins, hd, rfl⟩
    obtain ⟨rfl, hwf, -⟩ := decode_ok hd
    obtain ⟨row, hrow, hmn, hc⟩ := encode_covered ins hwf
    refine ⟨row, hrow, hmn, hc, fun hs => ?_⟩
    obtain ⟨a, rfl⟩ := Instr.eq_sys_of_mnemonic hs
    exact sysFault_of_decode_sys hd
  · rintro ⟨row, hrow, rfl, hc, hs⟩
    obtain ⟨ins, hmn, hwf, rfl⟩ := exists_encode_of_covers w row hrow hc
    exact ⟨ins, decodeOfEncode m ins hwf (by rintro ⟨a, rfl⟩; exact hs hmn.symm), hmn⟩

/-- Settles O12: the decoder computes each answer. -/
theorem decodedSampleWords : Obligations.DecodedSampleWords :=
  ⟨rfl, rfl, rfl, rfl, rfl, rfl, rfl, rfl⟩

end Sys2Proof

/-! ### What a fetched word makes the engine do -/

namespace Sys2Proof.Machine

/-- The word at `pc` is what the engine fetches (R140). -/
theorem State.fetch_of_wordAtPc {s : State} {w : Word} (h : s.wordAtPc w) : s.fetch = .ok w := by
  obtain ⟨hpc, hw⟩ := h
  rw [State.fetch_eq s hpc]
  exact congrArg _ (BitVec.eq_of_toNat_eq ((wordOfBytes_toNat _ _).trans hw.symm))

theorem State.engineStep_of_wordAtPc {s : State} {w : Word} (h : s.wordAtPc w) : s.engineStep = s.runWord w := by
  simp [State.engineStep, State.fetch_of_wordAtPc h]

theorem State.engineStep_of_decode_ok {s : State} {w : Word} {ins : Instr} (h : s.wordAtPc w)
    (hd : decode s.params.sysMode w = .ok ins) : s.engineStep = exec ins s := by
  simp [State.engineStep_of_wordAtPc h, State.runWord, hd]

theorem State.engineStep_of_badCode {s : State} {w : Word} (h : s.wordAtPc w)
    (hd : decode s.params.sysMode w = .error (.badCode w)) :
    ∃ t, s.engineStep = .next t ∧ raises s t (.badCode w) (some w) := by
  refine ⟨s.takeFault (.badCode w) (some w), ?_, rfl⟩
  simp [State.engineStep_of_wordAtPc h, State.runWord, hd, decodeRaise]

/-- Settles O10: the decoder's illegal words, and the engine at such a word, before and after the timers' ticks. -/
theorem illegalWordsRaiseBadCode : Obligations.IllegalWordsRaiseBadCode := by
  constructor
  · intro m w
    rw [decode_eq_badCode_iff]
    simp only [illegalWord, fieldN0_toNat, fieldN_toNat, fieldKK_toNat]
  · intro s w hclean hw hd
    have helapse : s.elapse.wordAtPc w := hw
    exact ⟨State.engineStep_of_badCode hw hd, by
      rw [step_of_clean hclean]
      exact State.engineStep_of_badCode helapse hd⟩

/-- Settles O11: both states fetch the word and decode it under the same `sys_mode`. -/
theorem decodingIgnoresState : Obligations.DecodingIgnoresState := by
  intro s s' w hw hw' hm
  cases hd : decode s.params.sysMode w with
  | ok ins =>
    obtain ⟨henc, -, -⟩ := decode_ok hd
    exact .inl ⟨ins, State.engineStep_of_decode_ok hw hd, State.engineStep_of_decode_ok hw' (hm ▸ hd), henc⟩
  | error e =>
    obtain ⟨rfl, -⟩ := decode_error hd
    obtain ⟨t, ht, hr⟩ := State.engineStep_of_badCode hw hd
    obtain ⟨t', ht', hr'⟩ := State.engineStep_of_badCode hw' (hm ▸ hd)
    exact .inr ⟨t, t', ht, ht', hr, hr'⟩

end Sys2Proof.Machine
end

section
/-! SUPPORT. Control flow: what the engine does with the word at `pc`, and what SYS, the jumps, the skips, CALL and RET
do (spec 40_control_flow.md R140 to R152). -/

namespace Sys2Proof.Machine

/-! ### A step and its fetch -/

/-- The timers' ticks leave the word at `pc`, so a clean machine's step executes what it decodes to (R140, R324). -/
theorem step_of_decode_ok {s : State} {w : Word} {ins : Instr} (hclean : s.fault = none) (hw : s.wordAtPc w)
    (hd : decode s.params.sysMode w = .ok ins) : step s = exec ins s.elapse := by
  have helapse : s.elapse.wordAtPc w := hw
  rw [step_of_clean hclean]
  exact State.engineStep_of_decode_ok helapse hd

/-- Settles O13: the fetched word decodes alike before and after the ticks, which write the timers only. -/
theorem stepRunsDecodedInstruction : Obligations.StepRunsDecodedInstruction :=
  fun _ _ _ hclean hw hd => ⟨step_of_decode_ok hclean hw hd, rfl, State.engineStep_of_decode_ok hw hd⟩

/-- A fetch that does not fit into memory raises, and no word is recorded (R140). -/
theorem State.engineStep_of_fetch_beyond {s : State} (h : Config.memSize < s.pc.toNat + 2) :
    ∃ t, s.engineStep = .next t ∧ raises s t (.outOfBounds s.pc.toNat 2) none := by
  have hfetch : s.fetch = .error (.outOfBounds s.pc.toNat 2) := by
    rw [State.fetch, s.mem.getRange_eq_outOfBounds h]
    rfl
  exact ⟨s.takeFault (.outOfBounds s.pc.toNat 2) none, by simp [State.engineStep, hfetch], rfl⟩

/-- Settles O14: the engine at such a `pc`, before and after the timers' ticks, which leave `pc`. -/
theorem fetchBeyondMemoryRaises : Obligations.FetchBeyondMemoryRaises := by
  intro s hclean hpc
  have helapse : Config.memSize < s.elapse.pc.toNat + 2 := hpc
  rw [step_of_clean hclean]
  exact ⟨State.engineStep_of_fetch_beyond hpc, State.engineStep_of_fetch_beyond helapse⟩

/-- Settles O18: an instruction answers a next state whatever it writes, and so does the engine's step. -/
theorem instructionsNeverStop : Obligations.InstructionsNeverStop := by
  constructor
  · intro ins s
    obtain ⟨t, ht, -⟩ := exec_writes ins s
    exact ⟨t, ht⟩
  · intro s hclean
    obtain ⟨t, ht, -⟩ := s.elapse.engineStep_writes
    exact ⟨t, (step_of_clean hclean).trans ht⟩

/-! ### SYS -/

/-- Family 0 under `sys_mode = SysBadCode` (R104): what is neither CLS nor RET is illegal. -/
theorem decode_sysBadCode_of_ne {w : Word} (hf : (fieldN0 w).toNat = 0x0) (hcls : w ≠ encode .cls)
    (hret : w ≠ encode .ret) : decode .sysBadCode w = .error (.badCode w) := by
  have h1 : w.toNat ≠ 0x00E0 := fun h => hcls (BitVec.eq_of_toNat_eq h)
  have h2 : w.toNat ≠ 0x00EE := fun h => hret (BitVec.eq_of_toNat_eq h)
  exact (decode_eq_badCode_iff _ w).mpr (.inr (.inr (.inr (.inr ⟨rfl, hf, h1, h2⟩))))

/-- Settles O19: SYS always raises; its word has no family bits, and its two decodings are those of family 0 apart from
CLS and RET. -/
theorem sysRaisesUnimplemented : Obligations.SysRaisesUnimplemented := by
  refine ⟨fun a s => ⟨_, rfl, rfl⟩, fun a hcls hret => ?_, rfl⟩
  have hwf : (Instr.sys a).wf = true := by simpa [Instr.wf] using ⟨hcls, hret⟩
  obtain ⟨hc, hr⟩ := (sys_wf_iff a).mp hwf
  have hf : (fieldN0 (encode (.sys a))).toNat = 0x0 := congrArg BitVec.toNat (fieldN0_formA 0x0 a)
  exact ⟨by simp [encode, formA_toNat], decodeOfEncode _ _ hwf fun _ => rfl, decode_sysBadCode_of_ne hf hc hr⟩

/-! ### Jumps and skips -/

@[simp] theorem zextAddr_toNat (a : Addr) : (zextAddr a).toNat = a.toNat :=
  BitVec.toNat_setWidth_of_le (by decide)

@[simp] theorem zextByte_toNat (b : Byte) : (zextByte b).toNat = b.toNat :=
  BitVec.toNat_setWidth_of_le (by decide)

/-- JPV0's target does not wrap: both summands are too small (R149). -/
theorem zextAddr_add_zextByte_toNat (a : Addr) (b : Byte) :
    (zextAddr a + zextByte b).toNat = a.toNat + b.toNat := by
  have := a.isLt
  have := b.isLt
  rw [BitVec.toNat_add, zextAddr_toNat, zextByte_toNat]
  omega

theorem onlyPc_of_eq {s t : State} (h : t = { s with pc := t.pc }) : onlyPc s t := by
  rw [h]
  exact ⟨rfl, rfl, rfl, ⟨rfl, rfl⟩, fun _ => rfl, rfl, ⟨rfl, rfl⟩, ⟨rfl, rfl⟩⟩

/-- Settles O21: both jumps write `pc` only. -/
theorem jumpsSetPc : Obligations.JumpsSetPc := by
  intro a s
  have hsum := zextAddr_add_zextByte_toNat a (s.reg 0)
  refine ⟨⟨s.jump (zextAddr a), rfl, zextAddr_toNat a, onlyPc_of_eq rfl⟩,
    ⟨s.jump (zextAddr a + zextByte (s.reg 0)), rfl, hsum, ?_, onlyPc_of_eq rfl⟩⟩
  have := a.isLt
  have := (s.reg 0).isLt
  rw [State.jump_pc, hsum]
  omega

/-- A skip advances, and once more when its condition holds (R150). -/
theorem State.skipIf_advance (s : State) {c : Bool} {p : Prop} [Decidable p] (h : c = true ↔ p) :
    onlyPc s (s.advance.skipIf c) ∧
      (s.advance.skipIf c).pc.toNat = (s.pc.toNat + if p then 4 else 2) % 65536 := by
  constructor
  · cases c <;> exact onlyPc_of_eq rfl
  · by_cases hp : p
    · rw [if_pos hp, h.mpr hp, State.skipIf_pc, if_pos rfl, State.advance_pc, BitVec.add_assoc]
      exact BitVec.toNat_add s.pc 4
    · rw [if_neg hp, State.skipIf_pc, if_neg (mt h.mp hp), State.advance_pc]
      exact BitVec.toNat_add s.pc 2

/-- Settles O22: the four skips are one advance by a comparison. -/
theorem skipsAdvancePc : Obligations.SkipsAdvancePc := fun _ _ _ s =>
  ⟨⟨_, rfl, s.skipIf_advance beq_iff_eq⟩, ⟨_, rfl, s.skipIf_advance bne_iff_ne⟩,
    ⟨_, rfl, s.skipIf_advance beq_iff_eq⟩, ⟨_, rfl, s.skipIf_advance bne_iff_ne⟩⟩

/-! ### CALL and RET -/

/-- What CALL leaves when there is room on the stack (R144). -/
def State.called (s : State) (a : Addr) (h : s.sp.val < 16) : State :=
  { s with
    stack := s.stack.set s.sp.val (s.pc + 2)
    sp := ⟨s.sp.val + 1, by omega⟩
    pc := zextAddr a }

theorem exec_call_of_lt {s : State} (a : Addr) (h : s.sp.val < 16) : exec (.call a) s = .next (s.called a h) := by
  have hpush : s.advance.push s.advance.pc = .ok _ := dif_pos h
  rw [exec, execCall, hpush]
  rfl

theorem exec_call_of_full {s : State} (a : Addr) (h : s.sp.val = 16) :
    exec (.call a) s = .next (s.takeFault (.stackOverflow 16) (some (encode (.call a)))) := by
  have hpush : s.advance.push s.advance.pc = .error (.stackOverflow 16) := by
    rw [← h]
    exact dif_neg (by simp [h])
  rw [exec, execCall, hpush]
  rfl

/-- Settles O23: CALL with room on the stack and with none. -/
theorem callPushesReturnAddress : Obligations.CallPushesReturnAddress := by
  intro a s
  constructor
  · intro h
    refine ⟨_, exec_call_of_lt a h, zextAddr_toNat a, rfl, ?_, ?_, rfl, rfl, rfl, fun _ => rfl, rfl, ⟨rfl, rfl⟩,
      ⟨rfl, rfl⟩⟩
    · rintro k hk rfl
      exact (congrArg BitVec.toNat (Vector.getElem_set_self h)).trans (BitVec.toNat_add s.pc 2)
    · intro k hk hne
      exact Vector.getElem_set_ne h hk hne.symm
  · exact fun h => ⟨_, exec_call_of_full a h, rfl⟩

/-- What RET leaves when `stack[k]` is the top of the stack (R142). -/
def State.returned (s : State) (k : Nat) (hk : k < 16) : State :=
  { s with sp := ⟨k, by omega⟩, pc := s.stack[k] }

theorem exec_ret_of_succ {s : State} {k : Nat} (hk : k < 16) (h : s.sp.val = k + 1) :
    exec .ret s = .next (s.returned k hk) := by
  have hpop : s.advance.popToPc = .ok (s.returned k hk) := by
    have hpos : 0 < s.advance.sp.val := by simp [h]
    have hk' : s.sp.val - 1 = k := by omega
    rw [State.popToPc, dif_pos hpos]
    simp [State.returned, State.advance, hk']
  rw [exec, execRet, hpop]
  rfl

theorem exec_ret_of_zero {s : State} (h : s.sp.val = 0) :
    exec .ret s = .next (s.takeFault (.stackUnderflow 0) (some 0x00EE)) := by
  have hpop : s.advance.popToPc = .error (.stackUnderflow 0) := by
    rw [← h]
    exact dif_neg (by simp [h])
  rw [exec, execRet, hpop]
  rfl

/-- Settles O24: RET with an entry on the stack and with none. -/
theorem retPopsReturnAddress : Obligations.RetPopsReturnAddress := fun _ =>
  ⟨fun _ hk h => ⟨_, exec_ret_of_succ hk h, rfl, rfl, rfl, rfl, rfl, rfl, fun _ => rfl, rfl, ⟨rfl, rfl⟩, ⟨rfl, rfl⟩⟩,
    fun h => ⟨_, exec_ret_of_zero h, rfl⟩⟩

/-- Settles O25: the top of the stack CALL left is the address behind it. -/
theorem callThenRetReturns : Obligations.CallThenRetReturns := by
  intro a s t u h hcall hsp hstack
  obtain rfl : s.called a h = t := Host.Outcome.next.inj ((exec_call_of_lt a h).symm.trans hcall)
  refine ⟨_, exec_ret_of_succ (s := u) h (congrArg Fin.val hsp), ?_, rfl, rfl, rfl⟩
  have htop : (s.called a h).stack[s.sp.val] = s.pc + 2 := Vector.getElem_set_self h
  simpa [State.returned, hstack] using htop

/-! ### The self-jump -/

/-- A step at a self-jump is the timers' ticks alone (R152). -/
theorem step_of_atSelfJump {s : State} (hclean : s.fault = none) (h : s.atSelfJump) : step s = .next s.elapse := by
  obtain ⟨a, hpc, hw⟩ := h
  have hd : decode s.params.sysMode (encode (.jp a)) = .ok (.jp a) :=
    decodeOfEncode _ (.jp a) rfl fun ⟨_, hsys⟩ => nomatch hsys
  calc step s = exec (.jp a) s.elapse := step_of_decode_ok hclean hw hd
    _ = .next (s.elapse.jump (zextAddr a)) := rfl
    _ = .next s.elapse := by rw [← hpc]; rfl

/-- Settles O59: the ticks write the timers only, so the self-jump still stands at `pc`. -/
theorem selfJumpOnlyTicks : Obligations.SelfJumpOnlyTicks :=
  fun s hclean h => ⟨s.elapse, step_of_atSelfJump hclean h, rfl, h⟩

end Sys2Proof.Machine
end

section
/-! SUPPORT. Register arithmetic and logic: the frame of an instruction that writes registers only, the two orders of
writing result and flag, and what LD to RND do (spec 41_alu.md R160, R161, R170 to R181). -/

namespace Sys2Proof.Machine

/-! ### The frame of a register write -/

theorem onlyRegs_of_eq {s t : State} {V : Vector Byte 16} {pc : Word} {k : Nat}
    (h : t = { s with V := V, pc := pc, rngIndex := k }) : onlyRegs s t := by
  rw [h]
  exact ⟨rfl, ⟨rfl, rfl⟩, fun _ => rfl, rfl, ⟨rfl, rfl⟩, ⟨rfl, rfl⟩⟩

theorem nextPc_of_eq {s t : State} (h : t.pc = s.pc + 2) : nextPc s t := by
  rw [nextPc, h]
  exact BitVec.toNat_add s.pc 2

/-- An advance with any registers draws nothing and leaves everything but the registers and `pc`. -/
theorem regsWrite_frame {s t : State} {V : Vector Byte 16} (h : t = { s.advance with V := V }) :
    t.rngIndex = s.rngIndex ∧ nextPc s t ∧ onlyRegs s t := by
  rw [h]
  exact ⟨rfl, nextPc_of_eq rfl, onlyRegs_of_eq rfl⟩

theorem regsKept_advance (rs : List Reg) (s : State) : regsKept rs s s.advance := fun _ _ => rfl

theorem regsKept.setReg {rs : List Reg} {s t : State} {x : Reg} (h : regsKept rs s t) (hx : x ∈ rs) (v : Byte) :
    regsKept rs s (t.setReg x v) := by
  intro r hr
  have hne : x ≠ r := fun he => hr (he ▸ hx)
  rw [State.reg_setReg, if_neg hne, h r hr]

theorem State.reg_setReg_self (s : State) (x : Reg) (v : Byte) : (s.setReg x v).reg x = v := by simp

/-! ### One register: LD, MOV, ADD, ADDV, OR, AND, XOR -/

/-- All but the value of an instruction that advances and writes `V[x]`. -/
theorem State.setReg_advance_frame (s : State) (x : Reg) (v : Byte) :
    regsKept [x] s (s.advance.setReg x v) ∧ (s.advance.setReg x v).rngIndex = s.rngIndex ∧
      nextPc s (s.advance.setReg x v) ∧ onlyRegs s (s.advance.setReg x v) :=
  ⟨(regsKept_advance [x] s).setReg (List.mem_singleton_self x) v, regsWrite_frame rfl⟩

/-- Settles O26: both write one register. -/
theorem loadAndMoveWriteVx : Obligations.LoadAndMoveWriteVx := fun x _ _ s =>
  ⟨⟨_, rfl, State.reg_setReg_self _ x _, s.setReg_advance_frame x _⟩,
    ⟨_, rfl, State.reg_setReg_self _ x _, s.setReg_advance_frame x _⟩⟩

/-- Settles O27: both write one register, with a sum of bytes. -/
theorem additionsWrap : Obligations.AdditionsWrap := by
  intro x y kk s
  refine ⟨⟨_, rfl, ?_, s.setReg_advance_frame x _⟩, ⟨_, rfl, ?_, s.setReg_advance_frame x _⟩⟩ <;>
    rw [State.reg_setReg_self]
  · exact BitVec.toNat_add (s.reg x) kk
  · exact BitVec.toNat_add (s.reg x) (s.reg y)

/-- Settles O28: the three write one register, with a value whose bits are those of the operands combined. -/
theorem logicIsBitwise : Obligations.LogicIsBitwise := by
  intro x y s
  refine ⟨⟨_, rfl, fun k => ?_, s.setReg_advance_frame x _⟩, ⟨_, rfl, fun k => ?_, s.setReg_advance_frame x _⟩,
    ⟨_, rfl, fun k => ?_, s.setReg_advance_frame x _⟩⟩ <;> rw [State.reg_setReg_self]
  · exact BitVec.getLsbD_or
  · exact BitVec.getLsbD_and
  · rw [Bool.bne_eq_xor]
    exact BitVec.getLsbD_xor

/-! ### The flag first, the result second: SUB and SUBN -/

theorem flagByte_decide (p : Prop) [Decidable p] : flagByte (decide p) = if p then 1 else 0 := by
  by_cases h : p <;> simp [flagByte, h]

theorem flagByte_toNat (b : Bool) : (flagByte b).toNat = b.toNat := by cases b <;> rfl

/-- A difference of bytes, mod 256. -/
theorem byte_sub_toNat (a b : Byte) : (a - b).toNat = (a.toNat + 256 - b.toNat) % 256 := by
  have := b.isLt
  rw [BitVec.toNat_sub]
  omega

/-- What SUB and SUBN leave (R161): the flag is overwritten by the result when x = 15. -/
def State.subtracted (s : State) (flag : Bool) (x : Reg) (v : Byte) : State := (s.advance.setFlag flag).setReg x v

theorem State.subtracted_flag (s : State) (flag : Bool) {x : Reg} (v : Byte) (hx : x ≠ 15) :
    (s.subtracted flag x v).reg 15 = flagByte flag := by
  rw [State.subtracted, State.reg_setReg, if_neg hx]
  exact State.reg_setReg_self _ vf _

theorem State.subtracted_frame (s : State) (flag : Bool) (x : Reg) (v : Byte) :
    regsKept [x, 15] s (s.subtracted flag x v) ∧ (s.subtracted flag x v).rngIndex = s.rngIndex ∧
      nextPc s (s.subtracted flag x v) ∧ onlyRegs s (s.subtracted flag x v) :=
  ⟨((regsKept_advance [x, 15] s).setReg (by simp) (flagByte flag)).setReg (by simp) v, regsWrite_frame rfl⟩

/-- Settles O29: the flag is a comparison of the old operands. -/
theorem subSetsStrictFlag : Obligations.SubSetsStrictFlag := by
  intro x y s
  refine ⟨s.subtracted (subFlag (s.reg x) (s.reg y)) x (s.reg x - s.reg y), rfl, ?_, fun hx => ?_,
    s.subtracted_frame _ x _⟩
  · rw [State.subtracted, State.reg_setReg_self, byte_sub_toNat]
  · rw [s.subtracted_flag _ _ hx, subFlag, flagByte_decide]

/-- Settles O30: the flag is a comparison of the old operands, by the rule of `subn_flag`. -/
theorem subnSetsFlagByRule : Obligations.SubnSetsFlagByRule := by
  intro x y s
  refine ⟨s.subtracted (subnFlag s.params.subnFlag (s.reg x) (s.reg y)) x (s.reg y - s.reg x), rfl, ?_,
    fun hx hrule => ?_, fun hx hrule => ?_, s.subtracted_frame _ x _⟩
  · rw [State.subtracted, State.reg_setReg_self, byte_sub_toNat]
  · rw [s.subtracted_flag _ _ hx, hrule, subnFlag, flagByte_decide]
  · rw [s.subtracted_flag _ _ hx, hrule, subnFlag, flagByte_decide]

/-! ### The result first, the flag last: SHR and SHL -/

theorem State.setShiftFlag_of_unchanged {s : State} (h : s.params.shiftVf = .unchanged) (out : Bool) :
    s.setShiftFlag out = s := by
  rw [State.setShiftFlag, h]

theorem State.setShiftFlag_of_shiftedOutBit {s : State} (h : s.params.shiftVf = .shiftedOutBit) (out : Bool) :
    s.setShiftFlag out = s.setFlag out := by
  rw [State.setShiftFlag, h]

/-- What SHR and SHL leave (R161): under `ShiftedOutBit` the result is overwritten by the flag when x = 15. -/
def State.shifted (s : State) (x : Reg) (v : Byte) (out : Bool) : State := (s.advance.setReg x v).setShiftFlag out

section
variable (s : State) (x : Reg) (v : Byte) (out : Bool)

theorem State.shifted_of_unchanged (h : s.params.shiftVf = .unchanged) : s.shifted x v out = s.advance.setReg x v :=
  State.setShiftFlag_of_unchanged (s := s.advance.setReg x v) h out

theorem State.shifted_of_shiftedOutBit (h : s.params.shiftVf = .shiftedOutBit) :
    s.shifted x v out = (s.advance.setReg x v).setFlag out :=
  State.setShiftFlag_of_shiftedOutBit (s := s.advance.setReg x v) h out

theorem State.shifted_reg (h : s.params.shiftVf = .unchanged ∨ x ≠ 15) : (s.shifted x v out).reg x = v := by
  have hkept : ¬(s.params.shiftVf = .shiftedOutBit ∧ vf = x) := by
    rintro ⟨hflag, rfl⟩
    simp [hflag] at h
  rw [State.shifted, State.reg_setShiftFlag]
  exact (if_neg hkept).trans (State.reg_setReg_self _ x v)

theorem State.shifted_regsKept (h : s.params.shiftVf = .unchanged) : regsKept [x] s (s.shifted x v out) := by
  rw [s.shifted_of_unchanged x v out h]
  exact (regsKept_advance [x] s).setReg (List.mem_singleton_self x) v

theorem State.shifted_flag (h : s.params.shiftVf = .shiftedOutBit) :
    ((s.shifted x v out).reg 15).toNat = out.toNat ∧ regsKept [x, 15] s (s.shifted x v out) := by
  rw [s.shifted_of_shiftedOutBit x v out h]
  constructor
  · exact (congrArg BitVec.toNat (State.reg_setReg_self _ vf _)).trans (flagByte_toNat out)
  · exact ((regsKept_advance [x, 15] s).setReg (by simp) v).setReg (by simp) (flagByte out)

theorem State.shifted_frame :
    (s.shifted x v out).rngIndex = s.rngIndex ∧ nextPc s (s.shifted x v out) ∧ onlyRegs s (s.shifted x v out) := by
  cases h : s.params.shiftVf with
  | unchanged =>
    rw [s.shifted_of_unchanged x v out h]
    exact regsWrite_frame rfl
  | shiftedOutBit =>
    rw [s.shifted_of_shiftedOutBit x v out h]
    exact regsWrite_frame rfl

end

theorem shr_toNat (a : Byte) : (a >>> 1).toNat = a.toNat / 2 := by
  rw [BitVec.toNat_ushiftRight, Nat.shiftRight_eq_div_pow]

theorem shl_toNat (a : Byte) : (a <<< 1).toNat = a.toNat * 2 % 256 := by
  rw [BitVec.toNat_shiftLeft, Nat.shiftLeft_eq]

/-- The bit SHR shifts out is the remainder of the halving (R178). -/
theorem shrOut_toNat (a : Byte) : (shrOut a).toNat = a.toNat % 2 := by
  have h : (shrOut a).toNat = a.toNat / 2 ^ 0 % 2 := Nat.toNat_testBit a.toNat 0
  rw [h, Nat.pow_zero, Nat.div_one]

/-- The bit SHL shifts out is the carry of the doubling (R180). -/
theorem shlOut_toNat (a : Byte) : (shlOut a).toNat = a.toNat / 128 := by
  have h : (shlOut a).toNat = a.toNat / 2 ^ 7 % 2 := Nat.toNat_testBit a.toNat 7
  have := a.isLt
  omega

/-- Settles O31: by the setting of `shift_vf`, with the result and the bit of each direction. -/
theorem shiftsInPlace : Obligations.ShiftsInPlace := by
  intro x y s
  constructor
  · refine ⟨s.shifted x (s.reg x >>> 1) (shrOut (s.reg x)), rfl, fun h => ?_, s.shifted_regsKept x _ _, fun h => ?_,
      s.shifted_frame x _ _⟩
    · rw [s.shifted_reg x _ _ h, shr_toNat]
    · rw [← shrOut_toNat]
      exact s.shifted_flag x _ _ h
  · refine ⟨s.shifted x (s.reg x <<< 1) (shlOut (s.reg x)), rfl, fun h => ?_, s.shifted_regsKept x _ _, fun h => ?_,
      s.shifted_frame x _ _⟩
    · rw [s.shifted_reg x _ _ h, shl_toNat]
    · rw [← shlOut_toNat]
      exact s.shifted_flag x _ _ h

/-! ### RND -/

/-- A masked byte has no bit outside its mask. -/
theorem byte_and_and_not_self (a kk : Byte) : a &&& kk &&& ~~~kk = 0 := by
  rw [BitVec.and_assoc, BitVec.and_not_self]
  exact BitVec.and_zero

/-- Settles O32: one register written with the masked draw, and the draw counter advanced. -/
theorem rndMasksOneDraw : Obligations.RndMasksOneDraw := by
  intro x kk s
  have hreg : (s.advance.setReg x (Config.rngDraw s.rngIndex &&& kk)).reg x = Config.rngDraw s.rngIndex &&& kk :=
    State.reg_setReg_self _ x _
  have hmask : (s.advance.setReg x (Config.rngDraw s.rngIndex &&& kk)).reg x &&& ~~~kk = 0 := by
    rw [hreg]
    exact byte_and_and_not_self _ kk
  obtain ⟨hregs, -, hpc, -⟩ := s.setReg_advance_frame x (Config.rngDraw s.rngIndex &&& kk)
  exact ⟨_, rfl, hreg, hmask, rfl, hregs, hpc, onlyRegs_of_eq rfl⟩

end Sys2Proof.Machine
end

section
/-! SUPPORT. The index register and memory instructions: what a write of `i` leaves, the three ways a store at `i` ends,
and what a load of the registers from `i` reads (spec 42_index_memory.md R199 to R207). -/

namespace Sys2Proof.Machine

/-! ### Writes of `i`: LDI, ADDI, LDF -/

/-- All but `i` of an instruction that advances and writes `i`. -/
theorem State.setI_advance_frame (s : State) (w : Word) :
    coreKept s (s.advance.setI w) ∧ memKept s (s.advance.setI w) ∧ (s.advance.setI w).fb = s.fb ∧
      timersKept s (s.advance.setI w) ∧ nextPc s (s.advance.setI w) :=
  ⟨⟨rfl, rfl, ⟨rfl, rfl⟩, ⟨rfl, rfl⟩⟩, fun _ => rfl, rfl, ⟨rfl, rfl⟩, nextPc_of_eq rfl⟩

/-- A glyph is five bytes, and the last one starts far below 65536 (R202). -/
theorem glyphAddr_toNat (v : Byte) : (glyphAddr v).toNat = v.toNat % 16 * 5 := by
  have hlow : (v &&& 0x0F).toNat = v.toNat % 16 := Nat.and_two_pow_sub_one_eq_mod v.toNat 4
  have hmul : (glyphAddr v).toNat = v.toNat % 16 * 5 % 65536 := by
    rw [glyphAddr, BitVec.toNat_mul, zextByte_toNat, hlow]
    rfl
  omega

/-- Settles O33: the three write `i`, each with its own value. -/
theorem indexRegisterWrites : Obligations.IndexRegisterWrites := by
  intro x a s
  refine ⟨⟨_, rfl, zextAddr_toNat a, s.setI_advance_frame _⟩, ⟨_, rfl, ?_, s.setI_advance_frame _⟩,
    ⟨_, rfl, glyphAddr_toNat (s.reg x), s.setI_advance_frame _⟩⟩
  rw [State.setI_i, BitVec.toNat_add, zextByte_toNat]

/-! ### Stores at `i`: LDB, LDIV -/

/-- What an instruction that stores `bs` at `i` leaves when it completes. -/
def State.stored (s : State) (bs : List Byte) : State := { s.advance with mem := s.mem.putBytes s.i.toNat bs }

section
variable {s : State} {bs : List Byte} {n : Nat}

/-- A store past the end of memory raises, with the instruction's state as it was (R203, R206). -/
theorem finish_store_of_beyond (ins : Instr) (hn : bs.length = n) (h : Config.memSize < s.i.toNat + n) :
    finish s ins (s.advance.store s.dataAddr bs) =
      .next (s.takeFault (.exceedsCapacity s.i.toNat n) (some (encode ins))) := by
  subst hn
  rw [State.store, State.dataAddr, Memory.setRange_eq_exceedsCapacity _ _ h]
  rfl

/-- A store into the font table under `font_write = Fault` raises (R76). -/
theorem finish_store_of_font (ins : Instr) (hn : bs.length = n) (hpos : 0 < n)
    (h : s.i.toNat + n ≤ Config.memSize) (hi : s.i.toNat < Config.fontLen) (hf : s.params.fontWrite = .fault) :
    finish s ins (s.advance.store s.dataAddr bs) =
      .next (s.takeFault (.readOnly s.i.toNat n) (some (encode ins))) := by
  subst hn
  rw [State.store, State.dataAddr, State.advance_params, hf,
    Memory.setRange_eq_readOnly _ h hi (List.ne_nil_of_length_pos hpos)]
  rfl

/-- Any other store completes. -/
theorem finish_store_of_le (ins : Instr) (hn : bs.length = n) (h : s.i.toNat + n ≤ Config.memSize)
    (hf : Config.fontLen ≤ s.i.toNat ∨ s.params.fontWrite = .allow) :
    finish s ins (s.advance.store s.dataAddr bs) = .next (s.stored bs) := by
  subst hn
  have hfont : s.advance.params.fontWrite = .fault → Config.fontLen ≤ s.i.toNat ∨ bs = [] :=
    fun hfault => .inl (hf.resolve_right fun hallow => nomatch hfault.symm.trans hallow)
  rw [State.dataAddr, State.store_eq s.advance h hfont]
  rfl

/-- Byte `k` of a completed store stands at `i + k`. -/
theorem State.stored_byte (hm : s.mem.wf) (hn : bs.length = n) (h : s.i.toNat + n ≤ Config.memSize) {k : Nat}
    (hk : k < n) : (s.stored bs).mem.byte (s.i.toNat + k) = bs.getD k 0 := by
  subst hn
  exact Memory.byte_putBytes_inside hm h hk

/-- All but the stored bytes of a completed store. -/
theorem State.stored_frame (hm : s.mem.wf) (hn : bs.length = n) (h : s.i.toNat + n ≤ Config.memSize) :
    memKeptOutside s.i.toNat n s (s.stored bs) ∧ (s.stored bs).i = s.i ∧ coreKept s (s.stored bs) ∧
      (s.stored bs).fb = s.fb ∧ timersKept s (s.stored bs) ∧ nextPc s (s.stored bs) := by
  subst hn
  exact ⟨fun _ => Memory.byte_putBytes_outside hm h, rfl, ⟨rfl, rfl, ⟨rfl, rfl⟩, ⟨rfl, rfl⟩⟩, rfl, ⟨rfl, rfl⟩,
    nextPc_of_eq rfl⟩

end

/-- Settles O34: the three ways a store of the three digits ends. -/
theorem ldbStoresDecimalDigits : Obligations.LdbStoresDecimalDigits := by
  intro x s hm
  have hn : (bcdDigits (s.reg x)).length = 3 := rfl
  refine ⟨fun h => ⟨_, finish_store_of_beyond (.ldb x) hn h, rfl⟩, fun hi hf => ?_, fun h hf => ?_⟩
  · have h : s.i.toNat + 3 ≤ 4096 := by omega
    exact ⟨_, finish_store_of_font (.ldb x) hn (by decide) h hi hf, rfl⟩
  · have hbyte {k : Nat} (hk : k < 3) := State.stored_byte hm hn h hk
    refine ⟨_, finish_store_of_le (.ldb x) hn h hf, ?_, ?_, ?_, State.stored_frame hm hn h⟩
    · exact congrArg BitVec.toNat (hbyte (k := 0) (by decide))
    · exact congrArg BitVec.toNat (hbyte (k := 1) (by decide))
    · exact congrArg BitVec.toNat (hbyte (k := 2) (by decide))

/-- Settles O35: the three ways a store of the 16 registers ends. -/
theorem ldivStoresAllRegisters : Obligations.LdivStoresAllRegisters := by
  intro x s hm
  have hn := s.length_asBytes
  refine ⟨fun h => ⟨_, finish_store_of_beyond (.ldiv x) hn h, rfl⟩, fun hi hf => ?_, fun h hf => ?_⟩
  · have h : s.i.toNat + 16 ≤ 4096 := by omega
    exact ⟨_, finish_store_of_font (.ldiv x) hn (by decide) h hi hf, rfl⟩
  · refine ⟨_, finish_store_of_le (.ldiv x) hn h hf, fun r => ?_, State.stored_frame hm hn h⟩
    rw [State.stored_byte hm hn h r.isLt, State.asBytes_getD]

/-! ### Loads from `i`: LDVI -/

/-- A load past the end of memory raises, with no register written (R207). -/
theorem exec_ldvi_of_beyond {s : State} (x : Reg) (h : Config.memSize < s.i.toNat + 16) :
    exec (.ldvi x) s = .next (s.takeFault (.outOfBounds s.i.toNat 16) (some (encode (.ldvi x)))) := by
  rw [exec, execLdvi, State.dataAddr, Memory.getRange_eq_outOfBounds _ h]
  rfl

/-- Any other load writes the registers with the bytes at `i` (R207). -/
theorem exec_ldvi_of_le {s : State} (x : Reg) (h : s.i.toNat + 16 ≤ Config.memSize) :
    ∃ bs, exec (.ldvi x) s = .next (s.advance.setBytes bs) ∧
      ∀ r, (s.advance.setBytes bs).reg r = s.mem.byte (s.i.toNat + r.val) := by
  obtain ⟨bs, hr, -, hbytes⟩ := s.mem.getRange_bytes h
  refine ⟨bs, ?_, fun r => ?_⟩
  · rw [exec, execLdvi, State.dataAddr, hr]
    rfl
  · rw [State.reg_setBytes, hbytes r.val r.isLt]

/-- Settles O36: a load inside memory and one past its end. -/
theorem ldviLoadsAllRegisters : Obligations.LdviLoadsAllRegisters := by
  intro x s
  refine ⟨fun h => ⟨_, exec_ldvi_of_beyond x h, rfl⟩, fun h => ?_⟩
  obtain ⟨bs, he, hregs⟩ := exec_ldvi_of_le x h
  exact ⟨_, he, hregs, regsWrite_frame rfl⟩

/-! ### A load of what was stored -/

/-- The register bank is its 16 registers. -/
theorem State.V_eq_of_reg {s t : State} (h : ∀ r, t.reg r = s.reg r) : t.V = s.V :=
  Vector.ext fun k hk => h ⟨k, hk⟩

/-- All that an LDIV which leaves no fault did. -/
theorem exec_ldiv_clean {x : Reg} {s t : State} (h : exec (.ldiv x) s = .next t) (ht : t.fault = none) :
    s.i.toNat + 16 ≤ Config.memSize ∧ t = s.stored s.asBytes := by
  have hst : s.advance.store s.i.toNat s.asBytes = .ok t := finish_clean h ht
  obtain ⟨hb, -, hstored⟩ := State.store_ok hst
  rw [State.length_asBytes] at hb
  exact ⟨hb, hstored⟩

/-- Settles O37: the load reads at `i` the bytes the store put there, the registers. -/
theorem ldivThenLdviRestores : Obligations.LdivThenLdviRestores := by
  intro x y s t u hm _ hexec ht hmem hi
  obtain ⟨hb, rfl⟩ := exec_ldiv_clean hexec ht
  have hui : u.i = s.i := hi
  obtain ⟨bs, hload, hregs⟩ := exec_ldvi_of_le (s := u) y (hui ▸ hb)
  refine ⟨_, hload, State.V_eq_of_reg fun r => ?_⟩
  calc (u.advance.setBytes bs).reg r = u.mem.byte (u.i.toNat + r.val) := hregs r
    _ = (s.stored s.asBytes).mem.byte (s.i.toNat + r.val) := by rw [hmem, hui]
    _ = s.asBytes.getD r.val 0 := State.stored_byte hm s.length_asBytes hb r.isLt
    _ = s.reg r := s.asBytes_getD r

end Sys2Proof.Machine
end

section
/-! SUPPORT. The display: what CLS, DRW and `resize` leave, when two bits of one sprite land on one pixel, and the laws
of a blit drawn once and twice (spec 43_display.md R230 to R241). -/

namespace Sys2Proof.Machine

/-! ### CLS -/

/-- Settles O41: what `clear` reads, in the frame of an advance. -/
theorem clsClearsEveryPixel : Obligations.ClsClearsEveryPixel := fun s =>
  ⟨{ s.advance with fb := s.fb.clear }, rfl, s.fb.pixel_clear, s.fb.clear_width, s.fb.clear_height,
    ⟨rfl, rfl, ⟨rfl, rfl⟩, ⟨rfl, rfl⟩⟩, rfl, fun _ => rfl, ⟨rfl, rfl⟩, nextPc_of_eq rfl⟩

/-! ### resize -/

theorem Framebuffer.resize_of_pos (fb : Framebuffer) {w h : Nat} (hw : 1 ≤ w) (hh : 1 ≤ h) :
    fb.resize w h =
      { width := w, height := h
        rows := (List.range h).map fun py => (List.range w).map fun px =>
          if py < fb.height ∧ px < fb.width then fb.pixel py px else false } := if_pos ⟨hw, hh⟩

theorem Framebuffer.resize_of_zero (fb : Framebuffer) {w h : Nat} (hz : ¬(1 ≤ w ∧ 1 ≤ h)) : fb.resize w h = fb :=
  if_neg hz

/-- A pixel inside both sizes keeps its value, a new one is off (R236). -/
theorem Framebuffer.pixel_resize (fb : Framebuffer) {w h py px : Nat} (hy : py < h) (hx : px < w) :
    (fb.resize w h).pixel py px = if py < fb.height ∧ px < fb.width then fb.pixel py px else false := by
  rw [fb.resize_of_pos (Nat.one_le_of_lt hx) (Nat.one_le_of_lt hy), Framebuffer.pixel]
  simp [List.getD_eq_getElem?_getD, hy, hx]

/-- Settles O45: the two answers of `resize`. -/
theorem resizeKeepsPixels : Obligations.ResizeKeepsPixels := by
  intro s w h
  refine ⟨fun hw hh => ?_, fun hz => ?_⟩
  · have hsize := s.fb.resize_of_pos hw hh
    exact ⟨hostResize s w h, congrArg _ (if_pos ⟨hw, hh⟩), congrArg Framebuffer.width hsize,
      congrArg Framebuffer.height hsize, fun _ _ => s.fb.pixel_resize, rfl⟩
  · have hn : ¬(1 ≤ w ∧ 1 ≤ h) := by omega
    rw [act, if_neg hn, hostResize, s.fb.resize_of_zero hn]

/-! ### How DRW ends -/

/-- A sprite past the end of memory raises (R241). -/
theorem exec_drw_of_beyond {s : State} (x y : Reg) {n : Nibble} (h : Config.memSize < s.i.toNat + n.toNat) :
    exec (.drw x y n) s = .next (s.takeFault (.outOfBounds s.i.toNat n.toNat) (some (encode (.drw x y n)))) := by
  rw [exec, execDrw, State.dataAddr, Memory.getRange_eq_outOfBounds _ h]
  rfl

/-- Any other sprite, the `n` bytes at `i`, is drawn at the coordinates the registers held (R241). -/
theorem exec_drw_of_le {s : State} (x y : Reg) {n : Nibble} (h : s.i.toNat + n.toNat ≤ Config.memSize) :
    ∃ bs : List Byte, bs.length = n.toNat ∧ (∀ r, r < n.toNat → bs.getD r 0 = s.mem.byte (s.i.toNat + r)) ∧
      exec (.drw x y n) s = .next (s.advance.drawSprite (s.reg x) (s.reg y) bs) := by
  obtain ⟨bs, hread, hlen, hbytes⟩ := s.mem.getRange_bytes h
  refine ⟨bs, hlen, hbytes, ?_⟩
  rw [exec, execDrw, State.dataAddr, hread]
  rfl

section
variable (s : State) (sx sy : Byte) (bs : List Byte)

theorem State.drawSprite_flag :
    (s.drawSprite sx sy bs).reg 15 = flagByte (s.fb.drawBytesAt sx.toNat sy.toNat bs).2 := by
  rw [State.reg_drawSprite]
  exact if_pos rfl

/-- All but the pixels and VF of an instruction that advances and draws. -/
theorem State.drawSprite_advance_frame :
    regsKept [15] s (s.advance.drawSprite sx sy bs) ∧ (s.advance.drawSprite sx sy bs).rngIndex = s.rngIndex ∧
      (s.advance.drawSprite sx sy bs).i = s.i ∧ stackKept s (s.advance.drawSprite sx sy bs) ∧
      memKept s (s.advance.drawSprite sx sy bs) ∧ timersKept s (s.advance.drawSprite sx sy bs) ∧
      latchKept s (s.advance.drawSprite sx sy bs) ∧ nextPc s (s.advance.drawSprite sx sy bs) := by
  refine ⟨fun r hr => ?_, rfl, rfl, ⟨rfl, rfl⟩, fun _ => rfl, ⟨rfl, rfl⟩, ⟨rfl, rfl⟩, nextPc_of_eq rfl⟩
  have hne : vf ≠ r := fun he => hr (he ▸ List.mem_singleton_self vf)
  rw [State.reg_drawSprite, if_neg hne, State.reg_advance]

end

theorem flagByte_eq_one_iff (b : Bool) : flagByte b = 1 ↔ b = true := by cases b <;> decide

theorem flagByte_zero_or_one (b : Bool) : flagByte b = 0 ∨ flagByte b = 1 := by cases b <;> decide

/-- Settles O42: a sprite inside memory and one past its end; a sprite of no bytes visits no bit. -/
theorem drwCompletesOrRaises : Obligations.DrwCompletesOrRaises := by
  intro x y n s
  refine ⟨fun h => ⟨_, exec_drw_of_beyond x y h, rfl⟩, fun h => ?_⟩
  obtain ⟨bs, hlen, -, hexec⟩ := exec_drw_of_le x y h
  obtain ⟨hwidth, hheight, -⟩ := s.fb.drawBytesAt_shape (s.reg x).toNat (s.reg y).toNat bs
  refine ⟨_, hexec, ?_, fun hn => ?_, hwidth, hheight, s.drawSprite_advance_frame _ _ bs⟩
  · rw [State.drawSprite_flag]
    exact flagByte_zero_or_one _
  · obtain rfl : bs = [] := List.eq_nil_of_length_eq_zero (hlen.trans (congrArg BitVec.toNat hn))
    exact ⟨rfl, State.drawSprite_flag _ _ _ []⟩

/-! ### The bits of a sprite and the pixels they land on -/

theorem SpriteBit.lands_iff {fb : Framebuffer} {sx sy py px : Nat} {sb : SpriteBit} :
    sb.lands fb sx sy py px = true ↔
      sb.bit = true ∧ py = (sy + sb.row) % fb.height ∧ px = (sx + sb.col) % fb.width := by
  simp [SpriteBit.lands, and_assoc]

/-- The pixels of a blit lie on the display (R230). -/
theorem SpriteBit.lands_inside {fb : Framebuffer} (h : fb.wf) {sx sy py px : Nat} {sb : SpriteBit}
    (hl : sb.lands fb sx sy py px = true) : py < fb.height ∧ px < fb.width := by
  obtain ⟨hw, hh, -⟩ := h
  obtain ⟨-, rfl, rfl⟩ := SpriteBit.lands_iff.mp hl
  exact ⟨Nat.mod_lt _ hh, Nat.mod_lt _ hw⟩

theorem mem_byteBits {row : Nat} {b : Byte} {sb : SpriteBit} :
    sb ∈ byteBits row b ↔ ∃ k, k < 8 ∧ sb = ⟨row, k, b.getLsbD (7 - k)⟩ := by
  simp [byteBits, eq_comm]

/-- The place of a sprite's bits: one row per byte, 8 columns (R232). -/
theorem place_of_mem_spriteBits {row : Nat} {bs : List Byte} {sb : SpriteBit} (h : sb ∈ spriteBits row bs) :
    row ≤ sb.row ∧ sb.row < row + bs.length ∧ sb.col < 8 := by
  induction bs generalizing row with
  | nil => cases h
  | cons b bs ih =>
    rw [List.length_cons]
    obtain hb | hbs := List.mem_append.mp h
    · obtain ⟨k, hk, rfl⟩ := mem_byteBits.mp hb
      exact ⟨Nat.le_refl row, Nat.lt_add_of_pos_right (Nat.succ_pos _), hk⟩
    · obtain ⟨hge, hlt, hcol⟩ := ih hbs
      exact ⟨by omega, by omega, hcol⟩

/-- No two bits of a sprite have one place. -/
theorem spriteBits_pairwise (row : Nat) (bs : List Byte) :
    (spriteBits row bs).Pairwise fun a b => ¬(a.row = b.row ∧ a.col = b.col) := by
  induction bs generalizing row with
  | nil => exact List.Pairwise.nil
  | cons b bs ih =>
    refine List.pairwise_append.mpr ⟨?_, ih (row + 1), fun a ha c hc => ?_⟩
    · refine List.pairwise_map.mpr (List.pairwise_lt_range.imp fun hlt hplace => ?_)
      exact Nat.ne_of_lt hlt hplace.2
    · obtain ⟨k, -, rfl⟩ := mem_byteBits.mp ha
      obtain ⟨hge, -⟩ := place_of_mem_spriteBits hc
      exact fun hplace => Nat.ne_of_lt hge hplace.1

theorem byte_ne_zero_iff (b : Byte) : b ≠ 0 ↔ ∃ k, k < 8 ∧ b.getLsbD (7 - k) = true := by
  constructor
  · intro hne
    by_contra hall
    refine hne (BitVec.eq_of_getLsbD_eq fun j hj => ?_)
    have hoff : ¬b.getLsbD (7 - (7 - j)) = true := fun hset => hall ⟨7 - j, by omega, hset⟩
    rw [Nat.sub_sub_self (Nat.le_of_lt_succ hj)] at hoff
    simpa using hoff
  · rintro ⟨k, -, hset⟩ rfl
    simp at hset

/-- A sprite has a set bit when it has a byte other than 0. -/
theorem exists_set_spriteBit_iff (row : Nat) (bs : List Byte) :
    (∃ sb ∈ spriteBits row bs, sb.bit = true) ↔ ∃ b ∈ bs, b ≠ 0 := by
  induction bs generalizing row with
  | nil => simp [spriteBits]
  | cons b bs ih =>
    have hbyte : (∃ sb ∈ byteBits row b, sb.bit = true) ↔ b ≠ 0 := by
      rw [byte_ne_zero_iff]
      simp [byteBits]
    simp only [spriteBits, List.mem_append, or_and_right, exists_or, hbyte, ih, List.exists_mem_cons_iff]

/-! ### How many set bits land on a pixel -/

/-- The number of a sprite's set bits that land on the pixel (py, px): more than one only where the sprite overlaps
itself (R234). -/
def Framebuffer.landings (fb : Framebuffer) (sx sy : Nat) (bs : List Byte) (py px : Nat) : Nat :=
  (spriteBits 0 bs).countP (·.lands fb sx sy py px)

/-- At most one element has a property that excludes it in every other. -/
theorem countP_le_one_of_pairwise {α : Type} {p : α → Bool} {l : List α}
    (h : l.Pairwise fun a b => ¬(p a = true ∧ p b = true)) : l.countP p ≤ 1 := by
  induction h with
  | nil => exact Nat.zero_le 1
  | @cons a l hexcl _ ih =>
    by_cases hp : p a = true
    · have hrest : l.countP p = 0 := List.countP_eq_zero.mpr fun b hb hpb => hexcl b hb ⟨hp, hpb⟩
      rw [List.countP_cons_of_pos hp, hrest]
    · rwa [List.countP_cons_of_neg hp]

section
variable {fb : Framebuffer} {sx sy : Nat} {bs : List Byte} {py px : Nat}

theorem Framebuffer.one_le_landings_iff :
    1 ≤ fb.landings sx sy bs py px ↔ ∃ sb ∈ spriteBits 0 bs, sb.lands fb sx sy py px = true :=
  List.countP_pos_iff

theorem Framebuffer.inside_of_one_le_landings (h : fb.wf) (hm : 1 ≤ fb.landings sx sy bs py px) :
    py < fb.height ∧ px < fb.width := by
  obtain ⟨_, -, hl⟩ := Framebuffer.one_le_landings_iff.mp hm
  exact SpriteBit.lands_inside h hl

/-- Some pixel is hit exactly when the sprite has a set bit: every set bit lands somewhere (R230). -/
theorem Framebuffer.exists_one_le_landings_iff (fb : Framebuffer) (sx sy : Nat) (bs : List Byte) :
    (∃ py px, 1 ≤ fb.landings sx sy bs py px) ↔ ∃ b ∈ bs, b ≠ 0 := by
  rw [← exists_set_spriteBit_iff 0 bs]
  constructor
  · rintro ⟨py, px, hm⟩
    obtain ⟨sb, hmem, hl⟩ := Framebuffer.one_le_landings_iff.mp hm
    exact ⟨sb, hmem, (SpriteBit.lands_iff.mp hl).1⟩
  · rintro ⟨sb, hmem, hbit⟩
    exact ⟨_, _, Framebuffer.one_le_landings_iff.mpr ⟨sb, hmem, SpriteBit.lands_iff.mpr ⟨hbit, rfl, rfl⟩⟩⟩

/-- A sprite no wider and no taller than the display does not overlap itself (R234): two offsets below the size that
wrap to one coordinate are equal. -/
theorem Framebuffer.landings_le_one (hw : 8 ≤ fb.width) (hh : bs.length ≤ fb.height) :
    fb.landings sx sy bs py px ≤ 1 := by
  refine countP_le_one_of_pairwise ((spriteBits_pairwise 0 bs).imp_of_mem ?_)
  rintro a b ha hb hplace ⟨hla, hlb⟩
  obtain ⟨-, harow, hacol⟩ := place_of_mem_spriteBits ha
  obtain ⟨-, hbrow, hbcol⟩ := place_of_mem_spriteBits hb
  obtain ⟨-, hya, hxa⟩ := SpriteBit.lands_iff.mp hla
  obtain ⟨-, hyb, hxb⟩ := SpriteBit.lands_iff.mp hlb
  have hrow : a.row ≡ b.row [MOD fb.height] := Nat.ModEq.add_left_cancel' sy (hya.symm.trans hyb)
  have hcol : a.col ≡ b.col [MOD fb.width] := Nat.ModEq.add_left_cancel' sx (hxa.symm.trans hxb)
  exact hplace ⟨hrow.eq_of_lt_of_lt (by omega) (by omega), hcol.eq_of_lt_of_lt (by omega) (by omega)⟩

/-- Each pixel of a blit is flipped by each set bit that lands on it (R230, R232). -/
theorem Framebuffer.pixel_drawBytesAt (h : fb.wf) (sx sy : Nat) (bs : List Byte) (py px : Nat) :
    (fb.drawBytesAt sx sy bs).1.pixel py px = xor (fb.pixel py px) (fb.landings sx sy bs py px % 2 == 1) :=
  (Framebuffer.drawBytesAt_spec h sx sy bs).1 py px

/-- A blit collides where a bit lands on a set pixel, or two bits on one pixel (R233, R234). -/
theorem Framebuffer.drawBytesAt_collides_iff (h : fb.wf) (sx sy : Nat) (bs : List Byte) :
    (fb.drawBytesAt sx sy bs).2 = true ↔ ∃ py px,
      (fb.pixel py px = true ∧ 1 ≤ fb.landings sx sy bs py px) ∨ 2 ≤ fb.landings sx sy bs py px :=
  (Framebuffer.drawBytesAt_spec h sx sy bs).2

/-- The pixels at which a blit collides lie on the display. -/
theorem Framebuffer.drawBytesAt_collides_inside_iff (h : fb.wf) (sx sy : Nat) (bs : List Byte) :
    (fb.drawBytesAt sx sy bs).2 = true ↔ ∃ py px, py < fb.height ∧ px < fb.width ∧
      ((fb.pixel py px = true ∧ 1 ≤ fb.landings sx sy bs py px) ∨ 2 ≤ fb.landings sx sy bs py px) := by
  rw [Framebuffer.drawBytesAt_collides_iff h]
  refine exists_congr fun py => exists_congr fun px => ⟨fun hc => ?_, fun ⟨_, _, hc⟩ => hc⟩
  have hm : 1 ≤ fb.landings sx sy bs py px := by omega
  obtain ⟨hy, hx⟩ := Framebuffer.inside_of_one_le_landings h hm
  exact ⟨hy, hx, hc⟩

end

/-- Settles O43: the blit of the bytes at `i`, its landings counted by `spriteCount`. -/
theorem drwXorsWrappedSprite : Obligations.DrwXorsWrappedSprite := by
  intro x y n s hwf hle m
  obtain ⟨bs, hlen, hbytes, hexec⟩ := exec_drw_of_le x y hle
  have hm : s.fb.landings (s.reg x).toNat (s.reg y).toNat bs = m :=
    funext fun py => funext fun px => spriteCount_eq_countP s _ _ hlen hbytes py px
  refine ⟨⟨_, hexec, fun py px _ _ => ?_, ?_, ?_⟩, fun hw hh py px => ?_⟩
  · rw [← hm]
    exact Framebuffer.pixel_drawBytesAt hwf _ _ bs py px
  · rw [State.drawSprite_flag]
    exact flagByte_zero_or_one _
  · rw [State.drawSprite_flag, flagByte_eq_one_iff, ← hm]
    exact Framebuffer.drawBytesAt_collides_inside_iff hwf _ _ bs
  · rw [← hm]
    exact Framebuffer.landings_le_one hw (hlen ▸ hh)

/-! ### The laws of a blit (R235) -/

/-- A well-formed display is its size and its pixels. -/
theorem Framebuffer.eq_of_pixel {fb fb' : Framebuffer} (h : fb.wf) (h' : fb'.wf) (hwidth : fb'.width = fb.width)
    (hheight : fb'.height = fb.height) (hpixel : ∀ py px, fb'.pixel py px = fb.pixel py px) : fb' = fb := by
  obtain ⟨-, -, hlen, hrow⟩ := h
  obtain ⟨-, -, hlen', hrow'⟩ := h'
  have hrows : fb'.rows = fb.rows := by
    refine List.ext_getElem (by omega) fun py hy' hy => List.ext_getElem ?_ fun px hx' hx => ?_
    · rw [hrow' _ (List.getElem_mem hy'), hrow _ (List.getElem_mem hy), hwidth]
    · simpa [Framebuffer.pixel, hy, hy', hx, hx'] using hpixel py px
  cases fb
  cases fb'
  congr

/-- Where a sprite lands depends on the display's size only, which a blit keeps. -/
theorem Framebuffer.landings_drawBytesAt (fb : Framebuffer) (sx sy : Nat) (bs : List Byte) :
    (fb.drawBytesAt sx sy bs).1.landings sx sy bs = fb.landings sx sy bs := by
  obtain ⟨hwidth, hheight, -⟩ := fb.drawBytesAt_shape sx sy bs
  funext py px
  simp only [Framebuffer.landings, SpriteBit.lands, hwidth, hheight]

section
variable {fb : Framebuffer} (h : fb.wf) (sx sy : Nat) {bs : List Byte}
include h

/-- The second of two equal blits flips back every pixel the first flipped. -/
theorem Framebuffer.drawBytesAt_twice (bs : List Byte) :
    ((fb.drawBytesAt sx sy bs).1.drawBytesAt sx sy bs).1 = fb := by
  obtain ⟨hw₁, hh₁, hwf₁⟩ := fb.drawBytesAt_shape sx sy bs
  obtain ⟨hw₂, hh₂, hwf₂⟩ := (fb.drawBytesAt sx sy bs).1.drawBytesAt_shape sx sy bs
  refine Framebuffer.eq_of_pixel h (hwf₂ (hwf₁ h)) (hw₂.trans hw₁) (hh₂.trans hh₁) fun py px => ?_
  rw [Framebuffer.pixel_drawBytesAt (hwf₁ h), Framebuffer.pixel_drawBytesAt h, Framebuffer.landings_drawBytesAt,
    Bool.xor_assoc, Bool.xor_self, Bool.xor_false]

/-- A sprite with no set bit hits no pixel. -/
theorem Framebuffer.drawBytesAt_of_blank (hblank : ∀ b ∈ bs, b = 0) : fb.drawBytesAt sx sy bs = (fb, false) := by
  have hm : ∀ py px, fb.landings sx sy bs py px = 0 := by
    intro py px
    by_contra hne
    obtain ⟨b, hb, hb0⟩ := (fb.exists_one_le_landings_iff sx sy bs).mp ⟨py, px, Nat.one_le_iff_ne_zero.mpr hne⟩
    exact hb0 (hblank b hb)
  obtain ⟨hwidth, hheight, hwf⟩ := fb.drawBytesAt_shape sx sy bs
  refine Prod.ext ?_ (Bool.eq_false_iff.mpr fun hc => ?_)
  · refine Framebuffer.eq_of_pixel h (hwf h) hwidth hheight fun py px => ?_
    rw [Framebuffer.pixel_drawBytesAt h, hm]
    exact Bool.xor_false _
  · obtain ⟨py, px, hc⟩ := (Framebuffer.drawBytesAt_collides_iff h sx sy bs).mp hc
    rw [hm] at hc
    omega

section
variable (hw : 8 ≤ fb.width) (hh : bs.length ≤ fb.height) (hclear : ∀ y x, fb.pixel y x = false)
include hw hh hclear

/-- Without self-overlap a blit on a clear display meets no set pixel. -/
theorem Framebuffer.drawBytesAt_of_clear : (fb.drawBytesAt sx sy bs).2 = false := by
  refine Bool.eq_false_iff.mpr fun hc => ?_
  obtain ⟨py, px, ⟨hset, -⟩ | htwo⟩ := (Framebuffer.drawBytesAt_collides_iff h sx sy bs).mp hc
  · exact Bool.false_ne_true ((hclear py px).symm.trans hset)
  · exact absurd (htwo.trans (Framebuffer.landings_le_one hw hh)) (by decide)

/-- Without self-overlap the first blit on a clear display sets just the pixels hit, and the second clears them. -/
theorem Framebuffer.drawBytesAt_twice_collides_iff :
    ((fb.drawBytesAt sx sy bs).1.drawBytesAt sx sy bs).2 = true ↔ ∃ b ∈ bs, b ≠ 0 := by
  obtain ⟨-, -, hwf⟩ := fb.drawBytesAt_shape sx sy bs
  rw [Framebuffer.drawBytesAt_collides_iff (hwf h), ← fb.exists_one_le_landings_iff sx sy]
  refine exists_congr fun py => exists_congr fun px => ?_
  have hm : fb.landings sx sy bs py px ≤ 1 := Framebuffer.landings_le_one hw hh
  rw [Framebuffer.landings_drawBytesAt, Framebuffer.pixel_drawBytesAt h, hclear, Bool.false_xor, beq_iff_eq]
  omega

end
end

/-- Settles O44: one law of R235 per clause. -/
theorem drawingTwiceRestores : Obligations.DrawingTwiceRestores := fun _ sx sy bs h =>
  ⟨Framebuffer.drawBytesAt_twice h sx sy bs, Framebuffer.drawBytesAt_of_blank h sx sy, fun hw hh hclear =>
    ⟨Framebuffer.drawBytesAt_of_clear h sx sy hw hh hclear,
      Framebuffer.drawBytesAt_twice_collides_iff h sx sy hw hh hclear⟩⟩

end Sys2Proof.Machine
end

section
/-! SUPPORT. The timer instructions: what a write of a timed register leaves (spec 44_timers.md R260 to R262). -/

namespace Sys2Proof.Machine

/-- An advance with any timers leaves everything but the timers and `pc`. -/
theorem timersWrite_frame {s t : State} {d e : Timer} (h : t = { s.advance with delay := d, sound := e }) :
    coreKept s t ∧ t.i = s.i ∧ memKept s t ∧ t.fb = s.fb ∧ nextPc s t := by
  rw [h]
  exact ⟨⟨rfl, rfl, ⟨rfl, rfl⟩, ⟨rfl, rfl⟩⟩, rfl, fun _ => rfl, rfl, nextPc_of_eq rfl⟩

/-- Settles O46: LDD writes one register; LDDV and LDS each set one timer, whose value is then the byte it was set to. -/
theorem timerInstructionsMoveValues : Obligations.TimerInstructionsMoveValues := by
  refine fun x s => ⟨?ldd, ?lddv, ?lds⟩
  case ldd => exact ⟨_, rfl, State.reg_setReg_self _ x _, s.setReg_advance_frame x _⟩
  case lddv => exact ⟨_, rfl, Timer.set_value Config.delayGap s.delay _, rfl, timersWrite_frame rfl⟩
  case lds => exact ⟨_, rfl, Timer.set_value Config.soundGap s.sound _, rfl, timersWrite_frame rfl⟩

end Sys2Proof.Machine
end

section
/-! SUPPORT. The key instructions: the fault they take and the word they record (spec 45_unimplemented.md R280 to
R282). -/

namespace Sys2Proof.Machine

/-- The register of a word of the form `fxkk` stands apart from the rest of the word: it adds its number in bits 8 to
11 to the word of register 0. -/
theorem formXK_toNat_eq_base_add (f : Nibble) (x : Reg) (kk : Byte) :
    (formXK f x kk).toNat = (formXK f 0 kk).toNat + x.val * 256 := by
  have hbase : (formXK f 0 kk).toNat = f.toNat * 4096 + 0 * 256 + kk.toNat := formXK_toNat f 0 kk
  rw [formXK_toNat, hbase]
  omega

/-- Fault entry is a raise: it writes the latch and nothing else (R302). -/
theorem State.takeFault_raises (s : State) (e : Error) (w : Option Word) : raises s (s.takeFault e w) e w := rfl

/-- Settles O20: each of the three takes the fault in the state it began in, with its own encoding as the word. -/
theorem keyInstructionsRaise : Obligations.KeyInstructionsRaise := by
  refine fun x s => ⟨?skp, ?sknp, ?ldk⟩
  case skp =>
    exact ⟨_, encode (.skp x), rfl, s.takeFault_raises _ _, formXK_toNat_eq_base_add 0xE x 0x9E⟩
  case sknp =>
    exact ⟨_, encode (.sknp x), rfl, s.takeFault_raises _ _, formXK_toNat_eq_base_add 0xE x 0xA1⟩
  case ldk =>
    exact ⟨_, encode (.ldk x), rfl, s.takeFault_raises _ _, formXK_toNat_eq_base_add 0xF x 0x0A⟩

end Sys2Proof.Machine
end

section
/-! SUPPORT. Errors and the fault latch, and the timed registers under ticks: what an instruction and a step of the
engine can do to the latch, which actions keep it, and how ticks and time count a register down (spec 60_exceptions.md
R301 to R303, R322 to R325). -/

namespace Sys2Proof.Machine

/-! ### What a step can do to the latch -/

/-- An instruction that may raise completes with its result or raises its error with its own word (R302). -/
theorem finish_latch {s t : State} {ins : Instr} {r : Except Error State} (h : finish s ins r = .next t)
    (hok : ∀ u, r = .ok u → u.fault = s.fault) (herr : ∀ e, r = .error e → mayRaise ins e) :
    t.fault = s.fault ∨ ∃ e, mayRaise ins e ∧ raises s t e (some (encode ins)) := by
  obtain hr | ⟨e, he, rfl⟩ := finish_next h
  · exact .inl (hok t hr)
  · exact .inr ⟨e, herr e he, s.takeFault_raises e _⟩

/-- The same of a result made from the answer of a checked operation. -/
theorem finish_map_latch {α : Type} {s t : State} {ins : Instr} {r : Except Error α} {f : α → State}
    (h : finish s ins (r.map f) = .next t) (hok : ∀ a, r = .ok a → (f a).fault = s.fault)
    (herr : ∀ e, r = .error e → mayRaise ins e) :
    t.fault = s.fault ∨ ∃ e, mayRaise ins e ∧ raises s t e (some (encode ins)) := by
  cases r with
  | ok a => exact finish_latch h (fun u hu => Except.ok.inj hu ▸ hok a rfl) nofun
  | error e => exact finish_latch h nofun fun _ he => Except.error.inj he ▸ herr e rfl

/-- Every instruction keeps the latch or raises one of its own errors (R301, R302). -/
theorem exec_latch {ins : Instr} {s t : State} (h : exec ins s = .next t) :
    t.fault = s.fault ∨ ∃ e, mayRaise ins e ∧ raises s t e (some (encode ins)) := by
  cases ins with
  | cls | jp addr | ld x kk | add x kk | mov x y | or x y | and x y | xor x y | addv x y | sub x y | subn x y
  | ldi addr | jpv0 addr | rnd x kk | ldd x | lddv x | lds x | addi x | ldf x =>
    exact .inl (Host.Outcome.next.inj h ▸ rfl)
  | se x kk | sne x kk | sev x y | snev x y => exact .inl (Host.Outcome.next.inj h ▸ State.skipIf_fault _ _)
  | shr x y | shl x y => exact .inl (Host.Outcome.next.inj h ▸ State.setShiftFlag_fault _ _)
  | sys addr | skp x | sknp x | ldk x => exact .inr ⟨_, rfl, (Host.Outcome.next.inj h).symm⟩
  | ret =>
    refine finish_latch h (fun u hu => ?_) fun _ he => (State.popToPc_error he).2
    obtain ⟨-, -, -, hp⟩ := State.popToPc_ok hu
    rw [hp]
    rfl
  | call addr =>
    refine finish_map_latch h (fun u hu => ?_) fun _ he => (State.push_error he).2
    obtain ⟨-, -, -, hp⟩ := State.push_ok hu
    rw [hp]
    rfl
  | drw x y n =>
    exact finish_map_latch h (fun _ _ => State.drawSprite_fault _ _ _ _) fun _ he =>
      ⟨_, _, (Memory.getRange_error he).2⟩
  | ldvi x => exact finish_map_latch h (fun _ _ => rfl) fun _ he => ⟨_, _, (Memory.getRange_error he).2⟩
  | ldb x | ldiv x =>
    refine finish_latch h (fun u hu => ?_) fun _ he => ?_
    · obtain ⟨-, -, hu⟩ := State.store_ok hu
      rw [hu]
      rfl
    · obtain ⟨-, he⟩ | ⟨-, -, -, -, he⟩ := State.store_error he
      · exact ⟨_, _, .inl he⟩
      · exact ⟨_, _, .inr he⟩

/-- A step of the engine keeps the latch or raises, and then the word it records is what the fetch gave (R302, R305):
an instruction's own word is the word it was decoded from. -/
theorem State.engineStep_latch {s t : State} (h : s.engineStep = .next t) :
    t.fault = s.fault ∨ ∃ e, raises s t e s.fetch.toOption := by
  obtain ⟨w, ins, hf, hd, hs⟩ | ⟨w, e, hf, -, hs⟩ | ⟨e, hf, hs⟩ := s.engineStep_cases
  · obtain ⟨henc, -, -⟩ := decode_ok hd
    refine (exec_latch (hs.symm.trans h)).imp_right ?_
    rintro ⟨e, -, hr⟩
    exact ⟨e, by rwa [hf, ← henc]⟩
  · exact .inr ⟨decodeRaise e, by rw [hf]; exact (Host.Outcome.next.inj (hs.symm.trans h)).symm⟩
  · exact .inr ⟨e, by rw [hf]; exact (Host.Outcome.next.inj (hs.symm.trans h)).symm⟩

theorem State.fetch_toOption_eq_none_iff (s : State) :
    s.fetch.toOption = none ↔ Config.memSize < s.pc.toNat + 2 := by
  cases hf : s.fetch with
  | ok w =>
    obtain ⟨hpc, -⟩ := State.fetch_ok hf
    simpa [Except.toOption] using hpc
  | error e =>
    obtain ⟨hpc, -⟩ := State.fetch_error hf
    simpa [Except.toOption] using hpc

/-- Settles O15: a clean machine's step that ends latched did not keep the latch, so it raised. -/
theorem faultsArePrecise : Obligations.FaultsArePrecise := by
  intro s t r hclean h hr
  obtain hkept | ⟨e, ht⟩ := State.engineStep_latch h
  · simp [hkept, hclean] at hr
  · obtain rfl : t = s.takeFault e s.fetch.toOption := ht
    obtain rfl := Option.some.inj hr
    exact ⟨rfl, rfl, s.fetch_toOption_eq_none_iff,
      fun w hw => congrArg Except.toOption (State.fetch_of_wordAtPc hw)⟩

/-! ### A latched machine -/

theorem act_load_of_tooLarge (s : State) {bytes : List Byte} (h : Config.progMax < bytes.length) :
    act (.load bytes) s = (s, .error (.programTooLarge bytes.length)) := by
  simp [act, loadProgram, h]

theorem act_load_of_le (s : State) {bytes : List Byte} (h : bytes.length ≤ Config.progMax) :
    act (.load bytes) s =
      ({ hostReset s with mem := (hostReset s).mem.putBytes Config.progBase bytes }, .ok) := by
  simp [act, loadProgram, Nat.not_lt.mpr h]

/-- While a fault is latched every action but a reset and a load that fits keeps the latch (R303). -/
theorem act_keeps_latch {s : State} {r : FaultRecord} (h : s.fault = some r) {e : Event} (hreset : e ≠ .reset)
    (hload : ∀ bytes, bytes.length ≤ Config.progMax → e ≠ .load bytes) : (act e s).1.fault = some r := by
  cases e with
  | step => exact (congrArg (·.1.fault) (hostStep_of_latched h)).trans h
  | reset => exact absurd rfl hreset
  | load bytes =>
    have hlarge : Config.progMax < bytes.length := Nat.lt_of_not_le fun hle => hload bytes hle rfl
    rw [act_load_of_tooLarge s hlarge]
    exact h
  | readMemory start len => rw [act_readMemory_fst]; exact h
  | tickDelay | tickSound | resize w k | pollFramebuffer | pollDelay | pollSound => exact h

/-- Settles O16: the steps stop at the latch, each other action by what it writes. -/
theorem latchedMachineTakesNoStep : Obligations.LatchedMachineTakesNoStep := by
  intro s r h
  refine ⟨step_of_latched h, hostStep_of_latched h, fun e => act_keeps_latch h, rfl, fun bytes hle => ?_,
    Timer.tick_value Config.delayGap s.delay, Timer.tick_value Config.soundGap s.sound, rfl, rfl, rfl⟩
  rw [act_load_of_le s hle]
  rfl

/-! ### Ticks -/

theorem Timer.tick_of_zero (gap : Nat → Nat) {t : Timer} (h : t.value = 0) : t.tick gap = t := if_pos h

theorem Timer.tick_value_of_pos (gap : Nat → Nat) {t : Timer} (h : 0 < t.value.toNat) :
    (t.tick gap).value.toNat + 1 = t.value.toNat := by
  rw [Timer.tick_value]
  omega

/-- Settles O47: each tick action is one tick of its own register. -/
theorem tickDecrementsOnce : Obligations.TickDecrementsOnce := fun s =>
  ⟨⟨s.delay.tick Config.delayGap, rfl, Timer.tick_value_of_pos _, Timer.tick_of_zero _⟩,
    ⟨s.sound.tick Config.soundGap, rfl, Timer.tick_value_of_pos _, Timer.tick_of_zero _⟩⟩

/-- Settles O48: each tick takes one from what was set, down to 0. -/
theorem ticksCountDownToZero : Obligations.TicksCountDownToZero := by
  intro gap t v n
  have hval : ((t.set gap v).ticks gap n).value.toNat = v.toNat - n := by
    rw [Timer.ticks_value, Timer.set_value]
  refine ⟨hval, by omega, fun hn => BitVec.eq_of_toNat_eq ?_⟩
  rw [hval]
  exact Nat.sub_eq_zero_of_le hn

/-! ### The timed refinement -/

section
variable {period dt : Nat} {t : TimedTimer}

theorem TimedTimer.advance_of_le (h : t.value.toNat ≤ (t.age + dt) / period) :
    t.advance period dt = { value := 0, age := 0 } := if_pos h

theorem TimedTimer.advance_of_lt (h : (t.age + dt) / period < t.value.toNat) :
    t.advance period dt =
      { value := BitVec.ofNat 8 (t.value.toNat - (t.age + dt) / period), age := (t.age + dt) % period } :=
  if_neg (Nat.not_le.mpr h)

/-- As many decrements as whole periods have ended since the phase began (R325). -/
theorem TimedTimer.advance_value :
    (t.advance period dt).value.toNat = t.value.toNat - (t.age + dt) / period := by
  rcases Nat.lt_or_ge ((t.age + dt) / period) t.value.toNat with h | h
  · rw [TimedTimer.advance_of_lt h]
    exact Nat.mod_eq_of_lt ((Nat.sub_le _ _).trans_lt t.value.isLt)
  · rw [TimedTimer.advance_of_le h]
    exact (Nat.sub_eq_zero_of_le h).symm

end

/-- The periods of two times together are those of the first, then those of what it left over with the second. -/
theorem periods_add {period : Nat} (hp : 0 < period) (a b : Nat) :
    (a + b) / period = a / period + (a % period + b) / period := by
  rw [← Nat.mul_add_div hp, ← Nat.add_assoc, Nat.div_add_mod]

/-- Time composes: the age that a first time leaves counts towards the periods of a second (R325). -/
theorem TimedTimer.advance_add {period : Nat} (hp : 0 < period) (a b : Nat) (t : TimedTimer) :
    t.advance period (a + b) = (t.advance period a).advance period b := by
  have hdiv := periods_add hp (t.age + a) b
  rw [Nat.add_assoc] at hdiv
  have hval : (t.advance period a).value.toNat = t.value.toNat - (t.age + a) / period := TimedTimer.advance_value
  rcases Nat.lt_or_ge ((t.age + a) / period) t.value.toNat with h | h
  · have hage : (t.advance period a).age = (t.age + a) % period := by rw [TimedTimer.advance_of_lt h]
    rcases Nat.lt_or_ge ((t.age + (a + b)) / period) t.value.toNat with h' | h'
    · rw [TimedTimer.advance_of_lt h', TimedTimer.advance_of_lt (by rw [hval, hage]; omega), hval, hage, hdiv,
        Nat.sub_sub, Nat.mod_add_mod, Nat.add_assoc]
    · rw [TimedTimer.advance_of_le h', TimedTimer.advance_of_le (by rw [hval, hage]; omega)]
  · have h' : t.value.toNat ≤ (t.age + (a + b)) / period := h.trans (hdiv ▸ Nat.le_add_right _ _)
    rw [TimedTimer.advance_of_le h, TimedTimer.advance_of_le h', TimedTimer.advance_of_le (Nat.zero_le _)]

/-- Settles O51: `set` restarts the phase, and time composes from any state of the register. -/
theorem timedTimerDecrementsPerPeriod : Obligations.TimedTimerDecrementsPerPeriod := by
  intro period t v a b hp
  refine ⟨?_, TimedTimer.advance_add hp a b _⟩
  rw [TimedTimer.advance_value, TimedTimer.set, Nat.zero_add]

end Sys2Proof.Machine
end

section
/-! SUPPORT. Where `pc` can be: every step and every action of an agent keeps it at 0x10FE or below (spec 10_state.md
section 3, 40_control_flow.md R140 to R150). -/

namespace Sys2Proof.Machine

/-- With no return address in use, a `pc` at the program's base is bounded: creation, reset and load (R350, R351). -/
theorem State.pcBounded_of_base {s : State} (hpc : s.pc = 0x200) (hsp : s.sp = 0) : s.pcBounded := by
  rw [State.pcBounded, hpc, hsp]
  exact ⟨by decide, fun k _ hk => absurd hk (Nat.not_lt_zero k)⟩

/-- Where the stack is kept, the bound is that of `pc`. -/
theorem State.pcBounded.of_stackKept {s t : State} (h : s.pcBounded) (hpc : t.pc.toNat ≤ 0x10FE)
    (hsp : t.sp = s.sp) (hstack : t.stack = s.stack) : t.pcBounded := by
  obtain ⟨-, hret⟩ := h
  rw [State.pcBounded, hsp, hstack]
  exact ⟨hpc, hret⟩

/-- The address behind a fetched word is at most 0x1000: the word's two bytes lie in memory (R140). -/
theorem State.next_pc_le_of_fetched {s : State} (h : s.pc.toNat + 2 ≤ Config.memSize) : (s.pc + 2).toNat ≤ 0x1000 :=
  (BitVec.toNat_add s.pc 2).trans_le ((Nat.mod_le _ _).trans h)

/-- A jump's target lies in memory (R143, R144). -/
theorem zextAddr_le (a : Addr) : (zextAddr a).toNat ≤ 0xFFF :=
  (zextAddr_toNat a).trans_le (Nat.le_of_lt_succ a.isLt)

section
variable {s t : State} (hb : s.pcBounded) (hfetched : s.pc.toNat + 2 ≤ Config.memSize)
include hb hfetched

theorem State.pcBounded.of_advance (hpc : t.pc = s.pc + 2) (hsp : t.sp = s.sp) (hstack : t.stack = s.stack) :
    t.pcBounded :=
  hb.of_stackKept (hpc ▸ (State.next_pc_le_of_fetched hfetched).trans (by decide)) hsp hstack

/-- A skip advances at most twice (R150). -/
theorem State.pcBounded.of_skip (c : Bool) : (s.advance.skipIf c).pcBounded := by
  have hnext : (s.pc + 2).toNat ≤ 0x1000 := State.next_pc_le_of_fetched hfetched
  cases c with
  | false => exact hb.of_advance hfetched rfl rfl rfl
  | true =>
    have hskip : (s.pc + 2 + 2).toNat ≤ 0x1002 :=
      (BitVec.toNat_add (s.pc + 2) 2).trans_le ((Nat.mod_le _ _).trans (Nat.add_le_add_right hnext 2))
    exact hb.of_stackKept (hskip.trans (by decide)) rfl rfl

/-- CALL pushes the address behind its own word (R144). -/
theorem State.pcBounded.called (a : Addr) (h : s.sp.val < 16) : (s.called a h).pcBounded := by
  obtain ⟨-, hret⟩ := hb
  refine ⟨(zextAddr_le a).trans (by decide), fun k hk hlt => ?_⟩
  obtain rfl | hne := eq_or_ne s.sp.val k
  · have htop : (s.called a h).stack[s.sp.val] = s.pc + 2 := Vector.getElem_set_self h
    exact htop ▸ State.next_pc_le_of_fetched hfetched
  · have hkept : (s.called a h).stack[k] = s.stack[k] := Vector.getElem_set_ne h hk hne
    exact hkept ▸ hret k hk (Nat.lt_of_le_of_ne (Nat.le_of_lt_succ hlt) hne.symm)

end

/-- RET goes to the top return address and leaves the ones below it in use (R142). -/
theorem State.pcBounded.returned {s : State} (hb : s.pcBounded) {k : Nat} (hk : k < 16) (h : s.sp.val = k + 1) :
    (s.returned k hk).pcBounded := by
  obtain ⟨-, hret⟩ := hb
  have hlast : k < s.sp.val := h ▸ k.lt_succ_self
  exact ⟨(hret k hk hlast).trans (by decide), fun j hj hlt => hret j hj (hlt.trans hlast)⟩

/-- An instruction that may raise keeps the bound by its result; a raise leaves `pc` and the stack (R302). -/
theorem finish_map_pcBounded {α : Type} {s t : State} {ins : Instr} {r : Except Error α} {f : α → State}
    (hb : s.pcBounded) (h : finish s ins (r.map f) = .next t) (hok : ∀ a, (f a).pcBounded) : t.pcBounded := by
  cases r with
  | ok a => exact Host.Outcome.next.inj h ▸ hok a
  | error e => exact Host.Outcome.next.inj h ▸ hb

/-- Every instruction whose word was fetched keeps the bound: `pc` advances, skips, or goes to a jump's target or to a
return address. -/
theorem exec_keeps_pcBounded {ins : Instr} {s t : State} (hb : s.pcBounded)
    (hfetched : s.pc.toNat + 2 ≤ Config.memSize) (h : exec ins s = .next t) : t.pcBounded := by
  cases ins with
  | cls | ld x kk | add x kk | mov x y | or x y | and x y | xor x y | addv x y | sub x y | subn x y
  | ldi addr | rnd x kk | ldd x | lddv x | lds x | addi x | ldf x =>
    exact Host.Outcome.next.inj h ▸ hb.of_advance hfetched rfl rfl rfl
  | shr x y | shl x y =>
    exact Host.Outcome.next.inj h ▸ hb.of_advance hfetched (State.setShiftFlag_pc _ _) (State.setShiftFlag_sp _ _)
      (State.setShiftFlag_stack _ _)
  | se x kk | sne x kk | sev x y | snev x y => exact Host.Outcome.next.inj h ▸ hb.of_skip hfetched _
  | jp addr => exact Host.Outcome.next.inj h ▸ hb.of_stackKept ((zextAddr_le addr).trans (by decide)) rfl rfl
  | jpv0 addr =>
    have hpc : (zextAddr addr + zextByte (s.reg 0)).toNat ≤ 0xFFF + 0xFF :=
      (zextAddr_add_zextByte_toNat addr _).trans_le
        (Nat.add_le_add (Nat.le_of_lt_succ addr.isLt) (Nat.le_of_lt_succ (s.reg 0).isLt))
    exact Host.Outcome.next.inj h ▸ hb.of_stackKept hpc rfl rfl
  | sys addr | skp x | sknp x | ldk x => exact Host.Outcome.next.inj h ▸ hb
  | ret =>
    rcases hsp : s.sp.val with _ | k
    · exact Host.Outcome.next.inj ((exec_ret_of_zero hsp).symm.trans h) ▸ hb
    · have hk : k < 16 := by omega
      exact Host.Outcome.next.inj ((exec_ret_of_succ hk hsp).symm.trans h) ▸ hb.returned hk hsp
  | call addr =>
    by_cases hsp : s.sp.val < 16
    · exact Host.Outcome.next.inj ((exec_call_of_lt addr hsp).symm.trans h) ▸ hb.called hfetched addr hsp
    · have hfull : s.sp.val = 16 := by omega
      exact Host.Outcome.next.inj ((exec_call_of_full addr hfull).symm.trans h) ▸ hb
  | drw x y n | ldb x | ldiv x | ldvi x => exact finish_map_pcBounded hb h fun _ => hb.of_advance hfetched rfl rfl rfl

/-- The engine executes only what it fetched; a raise of its fetch or its decoding leaves `pc` and the stack (R302). -/
theorem State.engineStep_keeps_pcBounded {s t : State} (hb : s.pcBounded) (h : s.engineStep = .next t) :
    t.pcBounded := by
  obtain ⟨w, ins, hf, -, hs⟩ | ⟨_, _, -, -, hs⟩ | ⟨_, -, hs⟩ := s.engineStep_cases
  · obtain ⟨hfetched, -⟩ := State.fetch_ok hf
    exact exec_keeps_pcBounded hb hfetched (hs.symm.trans h)
  · exact Host.Outcome.next.inj (hs.symm.trans h) ▸ hb
  · exact Host.Outcome.next.inj (hs.symm.trans h) ▸ hb

theorem hostStep_keeps_pcBounded {s : State} (hb : s.pcBounded) : (hostStep s).1.pcBounded := by
  cases hf : s.fault with
  | some r => rwa [hostStep_of_latched hf]
  | none =>
    obtain ⟨t, he, -⟩ := s.engineStep_writes
    rw [hostStep_of_clean hf he]
    exact State.engineStep_keeps_pcBounded hb he

/-- Of the agents' actions only a step, a reset and a load write `pc` or the stack. -/
theorem act_keeps_pcBounded {s : State} (e : Event) (hb : s.pcBounded) : (act e s).1.pcBounded := by
  cases e with
  | step => exact hostStep_keeps_pcBounded hb
  | reset => exact State.pcBounded_of_base rfl rfl
  | load bytes =>
    obtain h | h := act_load_fst s bytes <;> rw [h]
    · exact hb
    · exact State.pcBounded_of_base rfl rfl
  | readMemory start len => rwa [act_readMemory_fst]
  | tickDelay | tickSound | resize w h | pollFramebuffer | pollDelay | pollSound => exact hb

/-- Settles O55: the timers' ticks before a step leave `pc` and the stack, and the engine's step keeps the bound. -/
theorem pcStaysBounded : Obligations.PcStaysBounded := by
  refine ⟨fun p font => State.pcBounded_of_base rfl rfl, fun s t hb h => ?_, fun s e hb => act_keeps_pcBounded e hb⟩
  obtain ⟨-, he⟩ := step_next h
  have helapse : s.elapse.pcBounded := hb
  exact State.engineStep_keeps_pcBounded helapse he

end Sys2Proof.Machine
end

section
/-! SUPPORT. Creation, reset and load: the state each leaves, and the raise of a machine with no program (spec
70_reset_and_hazards.md R350 to R356). -/

namespace Sys2Proof.Machine

/-! ### Creation -/

/-- Writing what unlisted addresses read as into a memory that lists nothing still lists nothing. -/
theorem Memory.putBytes_unlisted {bs : List Byte} {start : Nat}
    (h : ∀ k, k < bs.length → bs.getD k 0 = unlistedByte (start + k)) :
    Memory.putBytes { cells := [] } start bs = { cells := [] } := by
  induction bs generalizing start with
  | nil => rfl
  | cons b bs ih =>
    have hput : Memory.put { cells := [] } start b = { cells := [] } := by
      have hb : b = unlistedByte start := h 0 (Nat.succ_pos _)
      simp [Memory.put, cellsPut, hb]
    rw [Memory.putBytes, hput]
    refine ih fun k hk => ?_
    rw [Nat.add_right_comm]
    exact h (k + 1) (Nat.succ_lt_succ hk)

/-- Settles O2: the default font table is what unlisted addresses read as, so its write lists nothing. -/
theorem resetIsDefaultCreation : Obligations.ResetIsDefaultCreation := by
  intro font hfont
  have hmem : State.reset.mem.putBytes 0 font.toList = State.reset.mem :=
    Memory.putBytes_unlisted fun k _ => by rw [hfont, Nat.zero_add]; rfl
  rw [State.create, hmem]
  rfl

section
variable (p : Params) (font : Vector Byte 80)

/-- The font table at 0x000..0x04F and 0 elsewhere (R351). -/
theorem State.create_byte (a : Nat) : (State.create p font).mem.byte a = if h : a < 80 then font[a] else 0 := by
  have hfits : 0 + font.toList.length ≤ Config.memSize := by simp [Config.memSize]
  refine (Memory.byte_putBytes State.reset_mem_wf 0 font.toList hfits a).trans ?_
  by_cases h : a < 80
  · simp [h]
  · have hunlisted : State.reset.mem.byte a = 0 := unlistedByte_of_le (Nat.le_of_not_lt h)
    simp [h, hunlisted]

theorem State.create_byte_of_le {a : Nat} (h : 80 ≤ a) : (State.create p font).mem.byte a = 0 :=
  (State.create_byte p font a).trans (dif_neg (Nat.not_lt.mpr h))

end

/-- Settles O1: memory by the write of the font table, the other pieces as `State.reset` has them. -/
theorem creationState : Obligations.CreationState := by
  intro p font
  obtain ⟨-, hfb, -, -⟩ := State.reset_inv
  have hclear : State.reset.fb = State.reset.fb.clear := rfl
  exact ⟨rfl, rfl, rfl, rfl, fun k h => Vector.getElem_replicate h, fun r => Vector.getElem_replicate r.isLt,
    fun a h => (State.create_byte p font a).trans (dif_pos h), fun a => State.create_byte_of_le p font, rfl, rfl,
    hfb, fun y x => hclear ▸ State.reset.fb.pixel_clear y x, rfl, rfl, rfl⟩

/-! ### Reset -/

theorem hostReset_byte_of_le (s : State) {a : Nat} (h : 0x200 ≤ a) : (hostReset s).mem.byte a = 0 :=
  (s.mem.byte_clear a).trans (if_neg (Nat.not_lt.mpr h))

theorem hostReset_byte_of_lt (s : State) {a : Nat} (h : a < 0x200) : (hostReset s).mem.byte a = s.mem.byte a :=
  (s.mem.byte_clear a).trans (if_pos h)

/-- Settles O3: memory by `clear`, the display by its `clear`, and the timers as registers at 0. -/
theorem hostResetReinitializes : Obligations.HostResetReinitializes := by
  intro s
  have hdelay : (hostReset s).delay.value = 0 := Timer.set_value _ _ _
  have hsound : (hostReset s).sound.value = 0 := Timer.set_value _ _ _
  exact ⟨rfl, rfl, rfl, fun k h => Vector.getElem_replicate h, fun r => Vector.getElem_replicate r.isLt,
    hdelay, hsound, Timer.elapse_of_zero hdelay, Timer.elapse_of_zero hsound,
    fun a => hostReset_byte_of_le s, fun a => hostReset_byte_of_lt s,
    s.fb.pixel_clear, s.fb.clear_width, s.fb.clear_height, rfl, rfl⟩

/-! ### Load -/

/-- What a load that fits leaves (R353). -/
def State.loaded (s : State) (bytes : List Byte) : State :=
  { hostReset s with mem := (hostReset s).mem.putBytes Config.progBase bytes }

theorem loadProgram_of_tooLarge (s : State) {bytes : List Byte} (h : Config.progMax < bytes.length) :
    loadProgram s bytes = .error (.programTooLarge bytes.length) := if_pos h

theorem loadProgram_of_le (s : State) {bytes : List Byte} (h : bytes.length ≤ Config.progMax) :
    loadProgram s bytes = .ok (s.loaded bytes) := if_neg (Nat.not_lt.mpr h)

/-- All a load can do when it succeeds. -/
theorem loadProgram_ok {s t : State} {bytes : List Byte} (h : loadProgram s bytes = .ok t) :
    bytes.length ≤ Config.progMax ∧ t = s.loaded bytes := by
  rcases Nat.lt_or_ge Config.progMax bytes.length with hlen | hlen
  · rw [loadProgram_of_tooLarge s hlen] at h
    cases h
  · rw [loadProgram_of_le s hlen] at h
    exact ⟨hlen, (Except.ok.inj h).symm⟩

/-- A program of at most PROG_MAX bytes fits between its base and the end of memory (00_scope.md R8). -/
theorem program_fits {bytes : List Byte} (h : bytes.length ≤ Config.progMax) :
    Config.progBase + bytes.length ≤ Config.memSize :=
  Nat.add_le_add_left h Config.progBase

/-- Settles O4: the two answers of a load, and the bytes its write puts into the memory the reset left. -/
theorem loadProgramWritesAtBase : Obligations.LoadProgramWritesAtBase := by
  intro s bytes hm
  have hreset : (hostReset s).mem.wf := Memory.clear_wf hm
  refine ⟨fun h => ⟨loadProgram_of_tooLarge s h, act_load_of_tooLarge s h⟩, fun h => ?_⟩
  exact ⟨s.loaded bytes, loadProgram_of_le s h, act_load_of_le s h, rfl,
    fun k => Memory.byte_putBytes_inside hreset (program_fits h),
    fun a => Memory.byte_putBytes_outside hreset (program_fits h)⟩

/-- A range just written reads back (R72, R73). -/
theorem Memory.getRange_putBytes {m : Memory} (hm : m.wf) {start : Nat} {bs : List Byte}
    (h : start + bs.length ≤ Config.memSize) : (m.putBytes start bs).getRange start bs.length = .ok bs := by
  rw [Memory.getRange_eq _ h]
  refine congrArg Except.ok (List.ext_getElem (by simp) fun k hk hk' => ?_)
  simpa [hk'] using Memory.byte_putBytes_inside hm h hk'

/-- Settles O5: the write at 0x200 reads back, and it and the reset's clear both start past the font table. -/
theorem loadRoundTrip : Obligations.LoadRoundTrip := by
  intro s t bytes hm h
  obtain ⟨hlen, rfl⟩ := loadProgram_ok h
  have hreset : (hostReset s).mem.wf := Memory.clear_wf hm
  refine ⟨Memory.getRange_putBytes hreset (program_fits hlen), fun a ha => ?_⟩
  have hbase : a < Config.progBase := Nat.lt_trans ha (by decide)
  have hfont : (hostReset s).mem.byte a = s.mem.byte a := hostReset_byte_of_lt s hbase
  exact ⟨(Memory.byte_putBytes_of_lt hreset hbase bytes).trans hfont, hfont⟩

/-! ### A machine with no program -/

/-- Between steps nothing happens to a machine whose timers are both at 0. -/
theorem State.elapse_of_zero {s : State} (hd : s.delay.value = 0) (hs : s.sound.value = 0) : s.elapse = s := by
  rw [State.elapse, Timer.elapse_of_zero hd, Timer.elapse_of_zero hs]

/-- The engine at the word 0x0000 raises by `sys_mode` (R356). -/
theorem State.engineStep_of_zero_word {s : State} (h : s.wordAtPc 0x0000) :
    ∃ t, s.engineStep = .next t ∧ raises s t (zeroWordError s.params) (some 0x0000) := by
  cases hm : s.params.sysMode with
  | sysFault =>
    have hd : decode s.params.sysMode 0x0000 = .ok (.sys 0) := by rw [hm]; rfl
    refine ⟨s.takeFault (zeroWordError s.params) (some 0x0000), ?_, rfl⟩
    rw [State.engineStep_of_decode_ok h hd, zeroWordError, hm]
    rfl
  | sysBadCode =>
    have hd : decode s.params.sysMode 0x0000 = .error (.badCode 0x0000) := by rw [hm]; rfl
    rw [zeroWordError, hm]
    exact State.engineStep_of_badCode h hd

/-- So does a step of a clean machine at the program's base with idle timers and no program there. -/
theorem step_of_unloaded {s : State} (hclean : s.fault = none) (hd : s.delay.value = 0) (hs : s.sound.value = 0)
    (hpc : s.pc = 0x200) (hmem : ∀ a, 0x200 ≤ a → s.mem.byte a = 0) :
    ∃ t, step s = .next t ∧ raises s t (zeroWordError s.params) (some 0x0000) := by
  have hw : s.wordAtPc 0x0000 := by
    rw [State.wordAtPc, hpc, hmem _ (by decide), hmem _ (by decide)]
    decide
  rw [step_of_clean hclean, State.elapse_of_zero hd hs]
  exact State.engineStep_of_zero_word hw

theorem step_hostReset (s : State) :
    ∃ t, step (hostReset s) = .next t ∧ raises (hostReset s) t (zeroWordError s.params) (some 0x0000) :=
  step_of_unloaded (s := hostReset s) rfl (Timer.set_value _ _ _) (Timer.set_value _ _ _) rfl
    fun _ => hostReset_byte_of_le s

/-- Settles O6: a load of 0 bytes is a reset, and what a reset and creation leave is an unloaded machine. -/
theorem unloadedMachineRaises : Obligations.UnloadedMachineRaises := by
  refine ⟨step_hostReset, fun s => ?_, fun p font => ?_⟩
  · obtain ⟨t, ht⟩ := step_hostReset s
    exact ⟨hostReset s, t, loadProgram_of_le s (Nat.zero_le _), ht⟩
  · exact step_of_unloaded (s := State.create p font) rfl rfl rfl rfl
      fun a ha => State.create_byte_of_le p font (Nat.le_trans (by decide) ha)

end Sys2Proof.Machine
end

section
/-! SUPPORT. Which errors a step can end in, and how the timed registers count down along step boundaries (spec
60_exceptions.md R301, R324). -/

namespace Sys2Proof.Machine

/-! ### The errors of a step -/

/-- What the engine fetched is the word at `pc` (R140). -/
theorem State.wordAtPc_of_fetch {s : State} {w : Word} (h : s.fetch = .ok w) : s.wordAtPc w := by
  obtain ⟨hpc, rfl⟩ := State.fetch_ok h
  exact ⟨hpc, wordOfBytes_toNat _ _⟩

/-- A clean machine's step ends latched by its fetch, by its decoding, or by an error of the instruction (R301,
R305). -/
theorem State.engineStep_error {s t : State} {r : FaultRecord} (hclean : s.fault = none)
    (h : s.engineStep = .next t) (hr : t.fault = some r) :
    r.error = .outOfBounds s.pc.toNat 2 ∨ (∃ w, s.wordAtPc w ∧ r.error = .badCode w) ∨
      ∃ w ins, s.wordAtPc w ∧ decode s.params.sysMode w = .ok ins ∧ mayRaise ins r.error := by
  obtain ⟨w, ins, hf, hd, hs⟩ | ⟨w, e, hf, hd, hs⟩ | ⟨e, hf, hs⟩ := s.engineStep_cases
  · obtain hkept | ⟨e, he, rfl⟩ := exec_latch (hs.symm.trans h)
    · simp [hkept, hclean] at hr
    · obtain rfl := Option.some.inj hr
      exact .inr (.inr ⟨w, ins, State.wordAtPc_of_fetch hf, hd, he⟩)
  · obtain rfl := Host.Outcome.next.inj (hs.symm.trans h)
    obtain rfl := Option.some.inj hr
    obtain ⟨rfl, -⟩ := decode_error hd
    exact .inr (.inl ⟨w, State.wordAtPc_of_fetch hf, rfl⟩)
  · obtain rfl := Host.Outcome.next.inj (hs.symm.trans h)
    obtain rfl := Option.some.inj hr
    obtain ⟨-, rfl⟩ := State.fetch_error hf
    exact .inl rfl

/-- Settles O17: what an instruction, and what a step, can do to the latch; the four that always raise by definition. -/
theorem errorsPerInstruction : Obligations.ErrorsPerInstruction := by
  refine ⟨fun _ _ _ => exec_latch, fun _ _ _ => State.engineStep_error, ?_⟩
  rintro ins s (⟨x, rfl | rfl | rfl⟩ | ⟨a, rfl⟩)
  · exact ⟨_, .skp, rfl, s.takeFault_raises _ _⟩
  · exact ⟨_, .sknp, rfl, s.takeFault_raises _ _⟩
  · exact ⟨_, .ldk, rfl, s.takeFault_raises _ _⟩
  · exact ⟨_, .sys, rfl, s.takeFault_raises _ _⟩

/-! ### Step boundaries -/

theorem Timer.elapseFor_value_le (gap : Nat → Nat) (fuel : Nat) (t : Timer) :
    (Timer.elapseFor gap fuel t).value.toNat ≤ t.value.toNat := by
  obtain ⟨n, h | ⟨-, -, h⟩⟩ := Timer.elapseFor_cases gap fuel t <;> rw [h] <;>
    exact (Timer.ticks_value gap n t).trans_le (Nat.sub_le _ _)

/-- A register at a value other than 0 has a positive number of ticks for the boundary. -/
theorem Timer.elapse_of_ne_zero (gap : Nat → Nat) {t : Timer} (h : t.value ≠ 0) :
    t.elapse gap = if t.phase = 0 then Timer.elapseFor gap (t.value.toNat - 1) (t.tick gap)
      else { t with phase := t.phase - 1 } := by
  obtain ⟨n, hn⟩ : ∃ n, t.value.toNat = n + 1 :=
    Nat.exists_eq_succ_of_ne_zero fun hz => h (BitVec.eq_of_toNat_eq hz)
  rw [Timer.elapse, hn]
  rfl

/-- A counting register whose phase has run out ticks at least once. -/
theorem Timer.elapse_value_lt (gap : Nat → Nat) {t : Timer} (h : t.value ≠ 0) (hp : t.phase = 0) :
    (t.elapse gap).value.toNat < t.value.toNat := by
  have hpos : 0 < t.value.toNat := Nat.pos_of_ne_zero fun hz => h (BitVec.eq_of_toNat_eq hz)
  have htick : (t.tick gap).value.toNat + 1 = t.value.toNat := Timer.tick_value_of_pos gap hpos
  rw [Timer.elapse_of_ne_zero gap h, if_pos hp, ← htick]
  exact Nat.lt_succ_of_le (Timer.elapseFor_value_le gap _ _)

/-- A counting register whose phase has not run out waits. -/
theorem Timer.elapse_of_phase (gap : Nat → Nat) {t : Timer} {p : Nat} (h : t.value ≠ 0) (hp : t.phase = p + 1) :
    t.elapse gap = { t with phase := p } := by
  rw [Timer.elapse_of_ne_zero gap h, if_neg (by omega), hp]
  rfl

/-- Settles O49: a boundary is some ticks and perhaps one boundary less to wait, which is no draw and no tick. -/
theorem elapseIsSomeTicks : Obligations.ElapseIsSomeTicks := by
  refine fun gap t => ⟨?_, Timer.elapse_value_lt gap, fun p => Timer.elapse_of_phase gap⟩
  obtain ⟨n, h | ⟨-, -, h⟩⟩ := Timer.elapseFor_cases gap t.value.toNat t <;>
    exact ⟨n, by rw [Timer.elapse, h], by rw [Timer.elapse, h]⟩

/-- Weak fairness (R324): a counting register's phase runs out after that many boundaries, with the value kept. -/
theorem Timer.iterate_elapse_phase (gap : Nat → Nat) {t : Timer} (h : t.value ≠ 0) (p : Nat) :
    (Timer.elapse gap)^[p] { t with phase := p } = { t with phase := 0 } := by
  induction p with
  | zero => rfl
  | succ p ih => rw [Function.iterate_succ_apply, Timer.elapse_of_phase gap (t := { t with phase := p + 1 }) h rfl, ih]

/-- Settles O50: by induction on the value, which is lower once the phase has run out and one more boundary passed. -/
theorem countingTimerReachesZero : Obligations.CountingTimerReachesZero := by
  intro gap t
  induction hv : t.value.toNat using Nat.strong_induction_on generalizing t with
  | _ v ih =>
    by_cases hz : t.value = 0
    · exact ⟨0, hz⟩
    · have hlt : (Timer.elapse gap { t with phase := 0 }).value.toNat < v :=
        hv ▸ Timer.elapse_value_lt gap (t := { t with phase := 0 }) hz rfl
      obtain ⟨n, hn⟩ := ih _ hlt _ rfl
      have hwait : (Timer.elapse gap)^[t.phase] t = { t with phase := 0 } := Timer.iterate_elapse_phase gap hz t.phase
      refine ⟨n + 1 + t.phase, ?_⟩
      rw [Function.iterate_add_apply, hwait]
      exact hn

end Sys2Proof.Machine
end
